-- ==== Sys2Proof/Word.lean ====
section
/-! DEFINITION. The words of the block: the width of each register and field (00_scope.md R7, R8) and the enumerations
the spec names (R12). A value that software can read or write as a word is a bit vector of its exact width; a fixed set of
names is an inductive type. -/

namespace Sys2Proof

/-- A command word, `CMD64` (R60). -/
abbrev Word := BitVec 64

/-- One byte of a byte-wide transport of command words (R45). -/
abbrev Byte := BitVec 8

/-- `STEP_W = 32` (R7): `total_steps`, `remaining_steps` and the `steps` field. -/
abbrev StepCount := BitVec 32

/-- `SPEED_W = 16` (R7): `speed` and the `speed` field. -/
abbrev Speed := BitVec 16

/-- `ELAPSED_W = 10` (R7): `elapsed_ms`. -/
abbrev Elapsed := BitVec 10

/-- `NUM_COILS = 4` (R7): one phase-table row, the off pattern, `phase_out`; bit `j` is column `j` (R86). -/
abbrev Pattern := BitVec 4

/-- A position in the phase table (R21): `some i` names row `i` of the `NUM_ROWS = 8` rows, `none` is the sentinel 8
("uninitialized"). The values 9 to 15 of the 4-bit register are left out of the type, as R39 allows. -/
abbrev Index := Option (Fin 8)

/-- The contents of the 8 by 4 phase-table ROM (R44, R80): row `i`, for `i` in 0..7. -/
abbrev PhaseTable := Vector Pattern 8

/-- StepMode (R12, R22). -/
inductive StepMode where
  | wave
  | full
  | half
  deriving DecidableEq, Repr

/-- Direction (R12, R23). -/
inductive Direction where
  | cw
  | ccw
  deriving DecidableEq, Repr

/-- StopMode, "the primary state" of the block (R12, R24). -/
inductive StopMode where
  | free
  | torque
  | turning
  deriving DecidableEq, Repr

/-- The `mode` field of SET_STEP_MODE (R61): a step mode, or the reserved value `2'b11` (R65). -/
inductive ModeOperand where
  | wave
  | full
  | half
  | reserved
  deriving DecidableEq, Repr

/-- The `fr` field of STOP (R61). It cannot name TURNING (R63). -/
inductive StopOperand where
  | torque
  | free
  deriving DecidableEq, Repr

/-- The three error causes, one per bit of `err` (R32, R141). -/
inductive ErrorCode where
  | cmd
  | speed
  | uninit
  deriving DecidableEq, Repr

end Sys2Proof
end

