-- ==== Sys2Proof/Machine/Ports.lean ====
section
/-! DEFINITION. The input ports of one clock cycle (20_memory.md R40 to R43). -/

namespace Sys2Proof.Machine

/-- What the host, the timer source and the reset line drive in one clock cycle (R43). -/
structure CycleInput where
  /-- Synchronous reset, active high (R42). -/
  rst : Bool
  /-- A command is present this cycle (R40). -/
  cmdValid : Bool
  /-- The command word; ignored when `cmdValid` is false (R40). -/
  cmdWord : Word
  /-- One tick this cycle (R41). -/
  tick : Bool
  deriving DecidableEq, Repr

/-- A cycle with `rst = 0`, no command and no tick: `IDLE` (R71). -/
def CycleInput.quiet : CycleInput := ⟨false, false, 0#64, false⟩

/-- A cycle that presents the word `w` and no tick (R71). -/
def CycleInput.command (w : Word) : CycleInput := ⟨false, true, w, false⟩

/-- A cycle with `tick = 1` and no command: a bare tick (R71). -/
def CycleInput.tickOnly : CycleInput := ⟨false, false, 0#64, true⟩

/-- A cycle that presents the word `w` and `tick = 1` (R71). -/
def CycleInput.commandAndTick (w : Word) : CycleInput := ⟨false, true, w, true⟩

/-- A cycle with `rst = 1` (R71). -/
def CycleInput.reset : CycleInput := ⟨true, false, 0#64, false⟩

end Sys2Proof.Machine
end

