-- ==== Sys2Proof/Syntax.lean ====
section
/-! DEFINITION. The instructions: one constructor per row of spec/opcode_table.json. The commands of R62 with the operands
that R61 lists for each, the two reserved opcodes (R64), and the TICK event (R68). -/

namespace Sys2Proof

/-- One command of the command port, or one tick. An operand is the field's whole value (R63): no operand is
sign-extended, scaled or shifted. -/
inductive Instr where
  /-- NOP (R90). -/
  | nop
  /-- SET_STEP_MODE mode (R91). -/
  | setStepMode (mode : ModeOperand)
  /-- TURN_STEPS num_steps, speed, dir (R101). -/
  | turnSteps (numSteps : StepCount) (speed : Speed) (dir : Direction)
  /-- TURN_INFINITE speed, dir (R102). -/
  | turnInfinite (speed : Speed) (dir : Direction)
  /-- STOP TORQUE or STOP FREE (R103). -/
  | stop (mode : StopOperand)
  /-- CONTINUE_MOVEMENT dir (R104). -/
  | continueMovement (dir : Direction)
  /-- Reserved opcode `3'b110` (R64). -/
  | reserved6
  /-- Reserved opcode `3'b111` (R64). -/
  | reserved7
  /-- TICK: the event `tick = 1` (R68, R121). -/
  | tick
  deriving DecidableEq, Repr

end Sys2Proof
end

