-- ==== Sys2Proof/Statement.lean ====
section
/-! DEFINITION. The statements of the assembler (30_encoding.md R70, R71) as syntax trees. Numbers are as the source text
writes them, of any size; WellFormed.lean says which fit. -/

namespace Sys2Proof

/-- A statement that presents one word on the command port: a command spelled by name (R70), or a raw word (R71). -/
inductive CmdStmt where
  | nop
  | setStepMode (mode : StepMode)
  | turnSteps (numSteps speed : Nat) (dir : Direction)
  | turnInfinite (speed : Nat) (dir : Direction)
  | stop (mode : StopOperand)
  | continueMovement (dir : Direction)
  /-- `.word64 v`: the raw word `v`. -/
  | word64 (v : Nat)
  deriving DecidableEq, Repr

/-- One line of assembler source (R70, R71). -/
inductive Stmt where
  /-- A command alone: one cycle with `tick = 0`. -/
  | cmd (c : CmdStmt)
  /-- `<cmd> & TICK`: one cycle with the command and `tick = 1`. -/
  | cmdAndTick (c : CmdStmt)
  /-- `TICK`: one cycle with `tick = 1` and no command. -/
  | tick
  | ticks (k : Nat)
  | waitMs (k : Nat)
  | idle (k : Nat)
  /-- `RESET`: one cycle with `rst = 1`. -/
  | reset
  deriving DecidableEq, Repr

end Sys2Proof
end

