-- ==== Sys2Proof/WellFormed.lean ====
section
/-! DEFINITION. Which instructions and which assembler statements are well formed. Every `Instr` is: its operands have
exactly the fields' widths, and the reserved values are instructions with an effect of their own (R64, R65, R69). A
statement of the assembler is checked for the ranges of R70. -/

namespace Sys2Proof

/-- An instruction the block can be given. R69: every 64-bit word decodes, so no term of `Instr` is shut out. -/
def Instr.wellFormed : Instr → Bool
  | .nop => true
  | .setStepMode _ => true
  | .turnSteps _ _ _ => true
  | .turnInfinite _ _ => true
  | .stop _ => true
  | .continueMovement _ => true
  | .reserved6 => true
  | .reserved7 => true
  | .tick => true

/-- An instruction that is a word on the command port. A tick is not an encoded word (R68). -/
def Instr.isCommand : Instr → Bool
  | .tick => false
  | .nop => true
  | .setStepMode _ => true
  | .turnSteps _ _ _ => true
  | .turnInfinite _ _ => true
  | .stop _ => true
  | .continueMovement _ => true
  | .reserved6 => true
  | .reserved7 => true

/-- R70: `<num_steps>` must fit in 32 bits and `<speed>` in 16 bits; R71: a raw word is one 64-bit `cmd_word`. -/
def CmdStmt.wellFormed : CmdStmt → Bool
  | .nop => true
  | .setStepMode _ => true
  | .turnSteps n v _ => decide (n < 2 ^ 32) && decide (v < 2 ^ 16)
  | .turnInfinite v _ => decide (v < 2 ^ 16)
  | .stop _ => true
  | .continueMovement _ => true
  | .word64 v => decide (v < 2 ^ 64)

/-- A statement whose command, if it has one, is well formed. -/
def Stmt.wellFormed : Stmt → Bool
  | .cmd c => c.wellFormed
  | .cmdAndTick c => c.wellFormed
  | .tick => true
  | .ticks _ => true
  | .waitMs _ => true
  | .idle _ => true
  | .reset => true

end Sys2Proof
end

