-- ==== Sys2Proof/Decode.lean ====
section
/-! DEFINITION. The decoder and, after it, the encoder (30_encoding.md R60 to R69). The decoder is total on every 64-bit
word (R69). A byte transport carries a word as eight bytes, little-endian (R45); any other number of bytes is no command
word and is rejected by name. -/

namespace Sys2Proof

open Machine (CycleInput)

/-! ### The fields of `CMD64` (R61) -/

/-- `op`, bits [2:0]. -/
def opField (w : Word) : BitVec 3 := w.extractLsb' 0 3

/-- `mode`, bits [4:3]. -/
def modeField (w : Word) : BitVec 2 := w.extractLsb' 3 2

/-- `dir`, bit [5]. -/
def dirField (w : Word) : Bool := w.getLsbD 5

/-- `fr`, bit [6]. -/
def frField (w : Word) : Bool := w.getLsbD 6

/-- `speed`, bits [31:16]. -/
def speedField (w : Word) : Speed := w.extractLsb' 16 16

/-- `steps`, bits [63:32]. -/
def stepsField (w : Word) : StepCount := w.extractLsb' 32 32

/-! ### Operands (R63) -/

/-- The `mode` operand: 00 WAVE, 01 FULL, 10 HALF, 11 reserved (R61, R65). -/
def decodeMode (b : BitVec 2) : ModeOperand :=
  if b = 0b00#2 then .wave else if b = 0b01#2 then .full else if b = 0b10#2 then .half else .reserved

/-- The `dir` operand: 0 CW, 1 CCW. -/
def decodeDir (b : Bool) : Direction := if b then .ccw else .cw

/-- The `fr` operand: 0 TORQUE, 1 FREE. -/
def decodeStop (b : Bool) : StopOperand := if b then .free else .torque

/-- R62, R69: the row of the opcode map that `cmd_word[2:0]` selects, with the fields that row uses and no other (R66). -/
def decodeWord (w : Word) : Instr :=
  if opField w = 0b000#3 then .nop
  else if opField w = 0b001#3 then .setStepMode (decodeMode (modeField w))
  else if opField w = 0b010#3 then .turnSteps (stepsField w) (speedField w) (decodeDir (dirField w))
  else if opField w = 0b011#3 then .turnInfinite (speedField w) (decodeDir (dirField w))
  else if opField w = 0b100#3 then .stop (decodeStop (frField w))
  else if opField w = 0b101#3 then .continueMovement (decodeDir (dirField w))
  else if opField w = 0b110#3 then .reserved6
  else .reserved7

/-- The instructions that one cycle's ports carry, in the order they take effect (R143): none under reset, else the
command if there is one, then the tick if there is one. -/
def decodeCycle (c : CycleInput) : List Instr :=
  if c.rst then []
  else (if c.cmdValid then [decodeWord c.cmdWord] else []) ++ (if c.tick then [Instr.tick] else [])

/-! ### The byte transport (R45) -/

/-- Why a list of bytes is no command word. -/
inductive DecodeError where
  /-- A command word is exactly eight bytes (R45, R60); this list has `n`. -/
  | notEightBytes (n : Nat)
  deriving DecidableEq, Repr

/-- Byte `k` of the transport is `cmd_word[8k+7:8k]` (R45). -/
def wordByte (w : Word) (k : Nat) : Byte := w.extractLsb' (8 * k) 8

/-- The eight bytes of a word, the first one first (R45). -/
def bytesOfWord (w : Word) : List Byte :=
  [wordByte w 0, wordByte w 1, wordByte w 2, wordByte w 3, wordByte w 4, wordByte w 5, wordByte w 6, wordByte w 7]

/-- The word that eight bytes carry (R45), or why there is none. -/
def wordOfBytes (bs : List Byte) : Except DecodeError Word :=
  match bs with
  | [b0, b1, b2, b3, b4, b5, b6, b7] => .ok (b7 ++ b6 ++ b5 ++ b4 ++ b3 ++ b2 ++ b1 ++ b0)
  | _ => .error (.notEightBytes bs.length)

/-- The instruction that a list of bytes carries: total on any bytes, and never a refusal of eight (R69). -/
def decodeBytes (bs : List Byte) : Except DecodeError Instr :=
  match wordOfBytes bs with
  | .ok w => .ok (decodeWord w)
  | .error e => .error e

/-! ### The opcode table's words -/

/-- How the ports carry a row of spec/opcode_table.json whose bits are `w`. The row of format TICK is 1 bit, on the `tick`
input (R68); every other row is a command word, of which the bits above `nbits` are 0. Log entry 14. -/
def tableWordInput (nbits w : Nat) : CycleInput :=
  if nbits ≤ 1 then
    if w % 2 = 1 then CycleInput.tickOnly else CycleInput.quiet
  else CycleInput.command (BitVec.ofNat 64 (w % 2 ^ nbits))

/-- The instruction the decoder reads from a row of spec/opcode_table.json. -/
def decodeTableWord (nbits w : Nat) : Option Instr :=
  (decodeCycle (tableWordInput nbits w)).head?

/-! ### The encoder -/

/-- `CMD64` from its fields, most significant first, with `rsv = 0` (R61). -/
def packWord (steps : StepCount) (speed : Speed) (fr dir : BitVec 1) (mode : BitVec 2) (op : BitVec 3) : Word :=
  steps ++ speed ++ 0#9 ++ fr ++ dir ++ mode ++ op

/-- The `mode` field of an operand (R61). -/
def encodeMode : ModeOperand → BitVec 2
  | .wave => 0b00#2
  | .full => 0b01#2
  | .half => 0b10#2
  | .reserved => 0b11#2

/-- The `dir` field of an operand (R61). -/
def encodeDir : Direction → BitVec 1
  | .cw => 0#1
  | .ccw => 1#1

/-- The `fr` field of an operand (R61). -/
def encodeStop : StopOperand → BitVec 1
  | .torque => 0#1
  | .free => 1#1

/-- The command word of an instruction (R61, R62), its unused bits zero (R66); a tick has none (R68). -/
def encodeWord : Instr → Option Word
  | .nop => some (packWord 0 0 0 0 0 0b000#3)
  | .setStepMode m => some (packWord 0 0 0 0 (encodeMode m) 0b001#3)
  | .turnSteps n v d => some (packWord n v 0 (encodeDir d) 0 0b010#3)
  | .turnInfinite v d => some (packWord 0 v 0 (encodeDir d) 0 0b011#3)
  | .stop m => some (packWord 0 0 (encodeStop m) 0 0 0b100#3)
  | .continueMovement d => some (packWord 0 0 0 (encodeDir d) 0 0b101#3)
  | .reserved6 => some (packWord 0 0 0 0 0 0b110#3)
  | .reserved7 => some (packWord 0 0 0 0 0 0b111#3)
  | .tick => none

/-- The ports of a cycle that carries exactly this instruction. -/
def encode (i : Instr) : CycleInput :=
  match encodeWord i with
  | some w => CycleInput.command w
  | none => CycleInput.tickOnly

end Sys2Proof
end

