-- ==== Sys2Proof/Config.lean ====
section
/-! DEFINITION. The free values: what the spec leaves without a value. Each is opaque, so no proof can use a value of it.
The numeric parameters of R7, which have the source's values, stand in Machine/Parameters.lean. -/

namespace Sys2Proof.Config

/-- The interval while `speed = 0`. The spec calls `1000/speed` "undefined" there (R100, 93_implementation_defined.md U1)
and no run stores 0 (R28). DESIGN CHOICE: a free value, log entry 4; safe. -/
opaque intervalAtZeroSpeed : Nat

/-- What the ROM returns for a read that is not of a row 0..7. `MemRead` is defined only for those (R9, R44) and no rule
makes another read. DESIGN CHOICE: a free value, log entry 5; safe. -/
opaque romReadNoRow : Pattern

end Sys2Proof.Config
end

