-- ==== Sys2Proof/Machine/Parameters.lean ====
section
/-! DEFINITION. The numeric parameters of 00_scope.md R7 and the phase table's default contents. The requester calls the
source's literals unaudited (93_implementation_defined.md section 2): UNVERIFIED, log entry 6. -/

namespace Sys2Proof.Machine

/-- `TICKS_PER_SECOND` (R7, R120). -/
def ticksPerSecond : Nat := 1000

/-- `NUM_ROWS` (R7), the modulus of the index adder (R128). -/
def numRows : Nat := 8

/-- `IDX_UNINIT` (R7, R21): how the status port shows the sentinel. -/
def idxUninit : BitVec 4 := 8#4

/-- `SKIP_WAVE` (R7, R127). -/
def skipWave : Nat := 2

/-- `SKIP_FULL` (R7, R127). -/
def skipFull : Nat := 2

/-- `SKIP_HALF` (R7, R127). -/
def skipHalf : Nat := 1

/-- `OFF`, the all-off pattern (R82). -/
def offPattern : Pattern := 0b0000#4

/-- The default contents of the phase table (R81), rows 0 to 7: the conventional unipolar half-step sequence.
PRESUMED (the spec marks it general knowledge and `PHASE_TABLE` OPEN), log entry 3; unsafe for a claim that rests on it. -/
def defaultPhaseTable : PhaseTable :=
  #v[0b0001#4, 0b0011#4, 0b0010#4, 0b0110#4, 0b0100#4, 0b1100#4, 0b1000#4, 0b1001#4]

end Sys2Proof.Machine
end

