-- ==== Sys2Proof/Machine/State.lean ====
section
/-! DEFINITION. The state of the block: the twelve registers of 10_state.md R20, and two fields of the model's own, the
ROM's contents (R44, R80) and what the input ports will carry (R40 to R43). With them the reasons a step could stop, and the
state after reset (R160). -/

namespace Sys2Proof.Machine

/-- Everything the block holds. Plain data. -/
structure State where
  /-- `current_index` (R21). -/
  currentIndex : Index
  /-- `step_mode` (R22). -/
  stepMode : StepMode
  /-- `direction` (R23). -/
  direction : Direction
  /-- `stop_mode` (R24). -/
  stopMode : StopMode
  /-- `total_steps` (R25). -/
  totalSteps : StepCount
  /-- `remaining_steps` (R26). -/
  remainingSteps : StepCount
  /-- `is_infinite` (R27). -/
  isInfinite : Bool
  /-- `speed` (R28). -/
  speed : Speed
  /-- `elapsed_ms` (R29). -/
  elapsedMs : Elapsed
  /-- `phase_out` (R30). -/
  phaseOut : Pattern
  /-- `out_commit` (R31). -/
  outCommit : Bool
  /-- `err`, the sticky error bits (R32). -/
  err : BitVec 3
  /-- The ROM's contents, the OPEN parameter `PHASE_TABLE` (R44, R80). A constant: nothing writes it. A field, so that a
  statement about every state is one about every table. Log entry 3. -/
  phaseTable : PhaseTable
  /-- What the input ports carry in the coming cycles, the next cycle first (R40, R41, R42). Log entries 1 and 2. -/
  inputs : List CycleInput
  deriving DecidableEq, Repr

/-- Why a step could stop with a fault. It has no constructor: nobody raises one. The block has no exceptions and no
traps, and no command and no tick is ever aborted (R140); its errors are the sticky bits of `err` (R141). -/
inductive Fault where
  deriving DecidableEq, Repr

/-- Why a step could be refused. -/
inductive Refusal where
  /-- Raised only by an arm of `exec` whose instruction has no meaning yet (none is left); safe, since the model stops
  where the block goes on. -/
  | notModelled (mnemonic : String)
  deriving DecidableEq, Repr

/-- The outcome of an instruction, a cycle or a step. -/
abbrev Result := Host.Outcome State Fault Refusal

/-- The state after reset (R160): each register at the value 10_state.md gives for it. The ROM holds the default table
(R81, log entry 3) and the ports carry nothing yet (log entry 1). -/
def State.reset : State where
  currentIndex := none
  stepMode := .half
  direction := .cw
  stopMode := .free
  totalSteps := 0#32
  remainingSteps := 0#32
  isInfinite := false
  speed := 1#16
  elapsedMs := 0#10
  phaseOut := 0b0000#4
  outCommit := false
  err := 0b000#3
  phaseTable := defaultPhaseTable
  inputs := []

end Sys2Proof.Machine
end

