-- ==== Sys2Proof/Machine/Flags.lean ====
section
/-! DEFINITION. The error bits and the completion flag (10_state.md R32, R33; 60_exceptions.md R141, R142, R146). This is
all the block has in place of exceptions (R140, R145): raising an error sets its bit and does nothing else. -/

namespace Sys2Proof.Machine

/-- The bit of `err` that an error sets (R32, R141). -/
def errorMask : ErrorCode → BitVec 3
  | .cmd => 0b001#3
  | .speed => 0b010#3
  | .uninit => 0b100#3

/-- `raise Error(E)` (R9): sets the sticky bit `E` and nothing else. It does not stop the operation. -/
def raiseError (e : ErrorCode) (s : State) : State :=
  { s with err := s.err ||| errorMask e }

/-- Whether the error's bit is set. -/
def State.hasError (e : ErrorCode) (s : State) : Bool :=
  decide (s.err &&& errorMask e ≠ 0#3)

/-- `st_done` (R33): the completed sub-state. -/
def State.stDone (s : State) : Bool :=
  decide (s.stopMode = .turning) && !s.isInfinite && decide (s.remainingSteps = 0#32)

end Sys2Proof.Machine
end

