-- ==== Sys2Proof/Machine/Operands.lean ====
section
/-! DEFINITION. What a command's operands stand for (30_encoding.md R63; 42_movement.md R100). -/

namespace Sys2Proof.Machine

/-- The step mode that a `mode` operand names, if it is not the reserved value (R22, R65). -/
def modeOfOperand : ModeOperand → Option StepMode
  | .wave => some .wave
  | .full => some .full
  | .half => some .half
  | .reserved => none

/-- The stop mode that an `fr` operand names (R63, R103). -/
def stopModeOfOperand : StopOperand → StopMode
  | .torque => .torque
  | .free => .free

/-- The value `clamp_speed` returns (R100): 0 becomes 1, and no other speed is changed. -/
def clampSpeed (speedOp : Speed) : Speed :=
  if speedOp = 0#16 then 1#16 else speedOp

/-- The state `clamp_speed` leaves (R100): `ERR_SPEED` is raised for a speed operand of 0. -/
def flagSpeed (speedOp : Speed) (s : State) : State :=
  if speedOp = 0#16 then raiseError .speed s else s

end Sys2Proof.Machine
end

