-- ==== Sys2Proof/Machine/Ops.lean ====
section
/-! DEFINITION. The operations that the meanings share: the ROM and its selector (40_phase_table.md), `Commit`
(20_memory.md R50), the interval, the multiplier, the index adder and the decrement (43_tick.md), the index repair
(41_configuration.md R91), and reset (R160).

The block takes no exception and returns from none (60_exceptions.md R140, R145, R146), so there is no operation for
either; what stands in their place is `raiseError` (Machine/Flags.lean). It has no byte-addressed memory (R44, R49): its one
storage array is the ROM, read by `memRead` and written by nothing. -/

namespace Sys2Proof.Machine

/-- Goes on with `f` after an outcome that is a next state. -/
def andThen (r : Result) (f : State → Result) : Result :=
  match r with
  | .next s => f s
  | .fault e => .fault e
  | .refused e => .refused e

/-! ### The phase-table ROM and its selector -/

/-- Row `i` of the ROM, `PHASE_TABLE(i)` (R80). -/
def romRow (rom : PhaseTable) (i : Fin 8) : Pattern := rom[i]

/-- `MemRead(i, 4)` (R44, R80): row `i` of the ROM. It is defined only for a row 0..7 (R9); the value of any other read,
which no rule makes, is free (log entry 5). -/
def memRead (rom : PhaseTable) : Index → Pattern
  | some i => romRow rom i
  | none => Config.romReadNoRow

/-- `phase_table_mux(sel_off, idx)` (R83). -/
def phaseTableMux (rom : PhaseTable) (selOff : Bool) (idx : Index) : Pattern :=
  if selOff then offPattern else memRead rom idx

/-! ### The output -/

/-- `Commit(p)` (R50). -/
def commit (p : Pattern) (s : State) : State :=
  { s with phaseOut := p, outCommit := true }

/-- The other half of R50: a cycle whose tick phase does not commit ends with `out_commit = 0`, `phase_out` kept. -/
def clearCommit (s : State) : State :=
  { s with outCommit := false }

/-! ### The interval (R120) -/

/-- `interval(speed) = floor_div(TICKS_PER_SECOND, speed)` (R120), for the speeds that can be stored (R28); free at 0
(log entry 4). -/
def interval (speed : Speed) : Nat :=
  if speed = 0#16 then Config.intervalAtZeroSpeed else ticksPerSecond / speed.toNat

/-- Writes `elapsed_ms`. A value a rule assigns fits (R35); the register keeps the low ELAPSED_W bits (log entry 7). -/
def setElapsed (e : Nat) (s : State) : State :=
  { s with elapsedMs := BitVec.ofNat 10 e }

/-! ### direction_control_multiplier and the index adder (R127, R128, R129) -/

/-- `skip_factor` (R127). -/
def skipFactor : StepMode → Nat
  | .wave => skipWave
  | .full => skipFull
  | .half => skipHalf

/-- `dir_sign` (R127). -/
def dirSign : Direction → Int
  | .cw => 1
  | .ccw => -1

/-- `delta(d, m) = dir_sign(d) * skip_factor(m)` (R127), a signed increment. -/
def delta (d : Direction) (m : StepMode) : Int :=
  dirSign d * (skipFactor m : Int)

/-- The 3-bit two's-complement form of `delta` (R127): the skip factor, negated when the direction is CCW. -/
def deltaBits (d : Direction) (m : StepMode) : BitVec 3 :=
  match d with
  | .cw => BitVec.ofNat 3 (skipFactor m)
  | .ccw => -BitVec.ofNat 3 (skipFactor m)

/-- `index_add(i, d) = (i + d) mod 8` (R128), with the true modulo of R10. -/
def indexAdd (i : Fin 8) (d : Int) : Fin 8 :=
  Fin.ofNat 8 (((i.val : Int) + d) % (numRows : Int)).toNat

/-- `dec_floor0` (R129). -/
def decFloor0 (r : StepCount) : StepCount :=
  if r = 0#32 then 0#32 else r - 1#32

/-! ### The index repair of SET_STEP_MODE (R91, R92) -/

/-- The index that a valid SET_STEP_MODE leaves, `i_new` of R91. -/
def repairIndex (m : StepMode) (idx : Index) : Fin 8 :=
  match idx with
  | none => if m = .full then 1 else 0
  | some i =>
    if m = .full ∧ i.val % 2 = 0 then i + 1
    else if m = .wave ∧ i.val % 2 = 1 then i - 1
    else i

/-! ### Reset (R160) -/

/-- `RESET()` (R160): every register at its reset value. The ROM is no register (R20), and what the ports carry in later
cycles is not the block's to change. -/
def resetRegisters (s : State) : State :=
  { State.reset with phaseTable := s.phaseTable, inputs := s.inputs }

end Sys2Proof.Machine
end

