-- ==== Sys2Proof/Machine/Configuration.lean ====
section
/-! DEFINITION. The configuration commands (41_configuration.md): NOP and SET_STEP_MODE. -/

namespace Sys2Proof.Machine

/-- NOP (R90): no state change. -/
def execNop (s : State) : Result := .next s

/-- SET_STEP_MODE (R91): a reserved mode raises `ERR_CMD` and changes nothing else (R65). -/
def execSetStepMode (mode : ModeOperand) (s : State) : Result :=
  match modeOfOperand mode with
  | none => .next (raiseError .cmd s)
  | some m => .next { s with stepMode := m, currentIndex := some (repairIndex m s.currentIndex) }

end Sys2Proof.Machine
end

