-- ==== Sys2Proof/Machine/Movement.lean ====
section
/-! DEFINITION. The movement commands (42_movement.md): TURN_STEPS, TURN_INFINITE, STOP and CONTINUE_MOVEMENT. None writes
`elapsed_ms`, `phase_out` or `out_commit` (R106). -/

namespace Sys2Proof.Machine

/-- TURN_STEPS (R101). -/
def execTurnSteps (numSteps : StepCount) (speedOp : Speed) (dir : Direction) (s : State) : Result :=
  .next
    { flagSpeed speedOp s with
      direction := dir
      totalSteps := numSteps
      remainingSteps := numSteps
      isInfinite := false
      speed := clampSpeed speedOp
      stopMode := .turning }

/-- TURN_INFINITE (R102). `total_steps` and `remaining_steps` are kept. -/
def execTurnInfinite (speedOp : Speed) (dir : Direction) (s : State) : Result :=
  .next
    { flagSpeed speedOp s with
      isInfinite := true
      speed := clampSpeed speedOp
      direction := dir
      stopMode := .turning }

/-- STOP (R103): only `stop_mode` is written. -/
def execStop (mode : StopOperand) (s : State) : Result :=
  .next { s with stopMode := stopModeOfOperand mode }

/-- The reversal bookkeeping of CONTINUE_MOVEMENT (R104): for another direction, `total_steps` becomes
`total_steps - remaining_steps` modulo 2^32 and the direction is written; `remaining_steps` is not. -/
def foldReversal (dir : Direction) (s : State) : State :=
  if dir = s.direction then s
  else { s with totalSteps := s.totalSteps - s.remainingSteps, direction := dir }

/-- CONTINUE_MOVEMENT (R104): nothing at all while TURNING. -/
def execContinueMovement (dir : Direction) (s : State) : Result :=
  if s.stopMode = .turning then .next s
  else .next { foldReversal dir s with stopMode := .turning }

end Sys2Proof.Machine
end

