-- ==== Sys2Proof/Machine/Reserved.lean ====
section
/-! DEFINITION. The reserved opcodes (30_encoding.md R64): each raises `ERR_CMD` and changes nothing else. -/

namespace Sys2Proof.Machine

/-- Reserved opcode `3'b110` (R64). -/
def execReserved6 (s : State) : Result := .next (raiseError .cmd s)

/-- Reserved opcode `3'b111` (R64). -/
def execReserved7 (s : State) : Result := .next (raiseError .cmd s)

end Sys2Proof.Machine
end

