-- ==== Sys2Proof/Machine/Tick.lean ====
section
/-! DEFINITION. TICK (43_tick.md): the accumulator, the step decision and its branches. Each branch starts from a state
whose `elapsed_ms` is already 0 (R121) and whose `out_commit` is already 0 (R50, R143). -/

namespace Sys2Proof.Machine

/-- UNINIT (R126): `ERR_UNINIT` is raised; no commit, no advance, no decrement. -/
def uninit (s : State) : State := raiseError .uninit s

/-- HOLD_BRANCH(FREE) (R123): commits the off pattern, whatever the index. -/
def holdFree (s : State) : State :=
  commit (phaseTableMux s.phaseTable true s.currentIndex) s

/-- HOLD_BRANCH(TORQUE) (R123): commits the row at the index, or UNINIT. -/
def holdTorque (s : State) : State :=
  match s.currentIndex with
  | none => uninit s
  | some i => commit (phaseTableMux s.phaseTable false (some i)) s

/-- The `remaining_steps` that an advance leaves (R124): decremented unless the turn is infinite. -/
def countStep (infinite : Bool) (remaining : StepCount) : StepCount :=
  if infinite then remaining else decFloor0 remaining

/-- ADVANCE_BRANCH (R124): the index advances, the row at the NEW index is committed, and a finite turn counts down; or
UNINIT. -/
def advance (s : State) : State :=
  match s.currentIndex with
  | none => uninit s
  | some i =>
    let iNew := indexAdd i (delta s.direction s.stepMode)
    commit (phaseTableMux s.phaseTable false (some iNew))
      { s with currentIndex := some iNew, remainingSteps := countStep s.isInfinite s.remainingSteps }

/-- COMPLETED_BRANCH (R125): no commit and no write. -/
def completed (s : State) : State := s

/-- A turn that still advances: `is_infinite = 1` or `remaining_steps > 0` (R122). -/
def State.active (s : State) : Bool :=
  s.isInfinite || decide (s.remainingSteps ≠ 0#32)

/-- STEP_DECISION (R122). -/
def stepDecision (s : State) : State :=
  match s.stopMode with
  | .free => holdFree s
  | .torque => holdTorque s
  | .turning => if s.active then advance s else completed s

/-- TICK (R121). Without a commit it leaves `out_commit = 0` (R50). -/
def execTick (s : State) : Result :=
  let e := s.elapsedMs.toNat + 1
  if e < interval s.speed then .next (setElapsed e (clearCommit s))
  else .next (stepDecision (setElapsed 0 (clearCommit s)))

end Sys2Proof.Machine
end

