-- ==== Sys2Proof/Machine/Dispatch.lean ====
section
/-! DEFINITION. One arm per instruction, each one call of its meaning. -/

namespace Sys2Proof.Machine

def exec (i : Instr) (s : State) : Host.Outcome State Fault Refusal :=
  match i with
  | .nop => Sys2Proof.Machine.execNop s
  | .setStepMode mode => Sys2Proof.Machine.execSetStepMode mode s
  | .turnSteps numSteps speed dir => Sys2Proof.Machine.execTurnSteps numSteps speed dir s
  | .turnInfinite speed dir => Sys2Proof.Machine.execTurnInfinite speed dir s
  | .stop mode => Sys2Proof.Machine.execStop mode s
  | .continueMovement dir => Sys2Proof.Machine.execContinueMovement dir s
  | .reserved6 => Sys2Proof.Machine.execReserved6 s
  | .reserved7 => Sys2Proof.Machine.execReserved7 s
  | .tick => Sys2Proof.Machine.execTick s

end Sys2Proof.Machine
end

