-- ==== Sys2Proof/Machine/Cycle.lean ====
section
/-! DEFINITION. One clock cycle (60_exceptions.md R143; 00_scope.md R11): reset, else the command phase, then the tick
phase on the state the command left. -/

namespace Sys2Proof.Machine

/-- The command phase (R143). A word is ignored unless `cmd_valid = 1` (R40). -/
def commandPhase (c : CycleInput) (s : State) : Result :=
  if c.cmdValid then exec (decodeWord c.cmdWord) s else .next s

/-- The tick phase (R143), on the state the command phase left with `out_commit = 0`. -/
def tickPhase (c : CycleInput) (s : State) : Result :=
  if c.tick then exec .tick (clearCommit s) else .next (clearCommit s)

/-- `CYCLE(rst, cmd_valid, cmd_word, tick)` (R143). Under reset the cycle's command and tick are discarded (R160). -/
def cycle (c : CycleInput) (s : State) : Result :=
  if c.rst then .next (resetRegisters s) else andThen (commandPhase c s) (tickPhase c)

/-- What the ports carry in the next cycle, and the state once that cycle's inputs are taken. With no cycle listed the
ports are quiet (log entry 2). -/
def nextInput (s : State) : CycleInput × State :=
  match s.inputs with
  | [] => (CycleInput.quiet, s)
  | c :: rest => (c, { s with inputs := rest })

end Sys2Proof.Machine
end

