-- ==== Sys2Proof/Machine/Step.lean ====
section
/-! DEFINITION. One step is one clock cycle (00_scope.md R11). -/

namespace Sys2Proof.Machine

/-- One rising edge of `clk`: the next cycle's inputs are taken from the ports and the cycle is applied (R143). -/
def step (s : State) : Host.Outcome State Fault Refusal :=
  cycle (nextInput s).1 (nextInput s).2

/-- The state in which the coming cycle carries the instruction of an opcode-table row, ahead of what the ports carry
already. This stands for the host or the timer source driving the ports (log entry 1). -/
def State.withFetchWord (s : State) (nbits w : Nat) : State :=
  { s with inputs := tableWordInput nbits w :: s.inputs }

end Sys2Proof.Machine
end

