-- ==== Sys2Proof/Machine/Assembler.lean ====
section
/-! DEFINITION. The assembler of 30_encoding.md R70 and R71: what cycles a statement stands for, and the reading of source
text. It has no effect on the hardware (92_eei_decisions.md D33): it says how a program is written down as what the input
ports carry. The points of layout that the text leaves open are in log entry 15. -/

namespace Sys2Proof.Machine

/-! ### What a statement stands for -/

/-- The operand that spells a step mode (R70): there is no spelling for `2'b11`. -/
def operandOfMode : StepMode → ModeOperand
  | .wave => .wave
  | .full => .full
  | .half => .half

/-- The word that a command statement presents (R61, R70, R71). -/
def cmdWord : CmdStmt → Word
  | .nop => packWord 0 0 0 0 0 0b000#3
  | .setStepMode m => packWord 0 0 0 0 (encodeMode (operandOfMode m)) 0b001#3
  | .turnSteps n v d => packWord (BitVec.ofNat 32 n) (BitVec.ofNat 16 v) 0 (encodeDir d) 0 0b010#3
  | .turnInfinite v d => packWord 0 (BitVec.ofNat 16 v) 0 (encodeDir d) 0 0b011#3
  | .stop m => packWord 0 0 (encodeStop m) 0 0 0b100#3
  | .continueMovement d => packWord 0 0 0 (encodeDir d) 0 0b101#3
  | .word64 v => BitVec.ofNat 64 v

/-- The cycles that a statement expands to (R70, R71). -/
def stmtCycles : Stmt → List CycleInput
  | .cmd c => [CycleInput.command (cmdWord c)]
  | .cmdAndTick c => [CycleInput.commandAndTick (cmdWord c)]
  | .tick => [CycleInput.tickOnly]
  | .ticks k => List.replicate k CycleInput.tickOnly
  | .waitMs k => List.replicate k CycleInput.tickOnly
  | .idle k => List.replicate k CycleInput.quiet
  | .reset => [CycleInput.reset]

/-! ### Tokens -/

/-- A piece of a source line: a word in capitals, a comma or an ampersand. -/
inductive Token where
  | word (cs : List Char)
  | comma
  | ampersand
  deriving DecidableEq, Repr

/-- The word collected so far, if there is one; keywords are case-insensitive, so it is put in capitals (R70). -/
def flushWord (acc : List Char) : List Token :=
  if acc = [] then [] else [.word (acc.reverse.map Char.toUpper)]

/-- The tokens of one line; `;` starts a comment (R70). -/
def tokenize : List Char → List Char → List Token
  | [], acc => flushWord acc
  | c :: cs, acc =>
    if c = ';' then flushWord acc
    else if c = ',' then flushWord acc ++ .comma :: tokenize cs []
    else if c = '&' then flushWord acc ++ .ampersand :: tokenize cs []
    else if c.isWhitespace then flushWord acc ++ tokenize cs []
    else tokenize cs (c :: acc)

/-- The lines of a source text; a statement ends with its line (R70). -/
def splitLines : List Char → List Char → List (List Char)
  | [], acc => [acc.reverse]
  | c :: cs, acc => if c = '\n' then acc.reverse :: splitLines cs [] else splitLines cs (c :: acc)

/-- The value of a digit in the given base. -/
def digitValue (base : Nat) (c : Char) : Option Nat :=
  let v := if '0' ≤ c ∧ c ≤ '9' then c.toNat - '0'.toNat
    else if 'A' ≤ c ∧ c ≤ 'F' then c.toNat - 'A'.toNat + 10 else base
  if v < base then some v else none

/-- The number that digits spell, the most significant first. -/
def digitsValue (base : Nat) : List Char → Nat → Option Nat
  | [], acc => some acc
  | c :: cs, acc =>
    match digitValue base c with
    | some v => digitsValue base cs (acc * base + v)
    | none => none

/-- A number: decimal, or hexadecimal with a `0x` prefix (R70). -/
def parseNumber : List Char → Option Nat
  | '0' :: 'X' :: c :: cs => digitsValue 16 (c :: cs) 0
  | c :: cs => digitsValue 10 (c :: cs) 0
  | [] => none

/-- `WAVE | FULL | HALF`. -/
def parseMode (w : List Char) : Option StepMode :=
  if w = ['W', 'A', 'V', 'E'] then some .wave
  else if w = ['F', 'U', 'L', 'L'] then some .full
  else if w = ['H', 'A', 'L', 'F'] then some .half
  else none

/-- `CW | CCW`. -/
def parseDir (w : List Char) : Option Direction :=
  if w = ['C', 'W'] then some .cw else if w = ['C', 'C', 'W'] then some .ccw else none

/-- `TORQUE | FREE`. -/
def parseStop (w : List Char) : Option StopOperand :=
  if w = ['T', 'O', 'R', 'Q', 'U', 'E'] then some .torque
  else if w = ['F', 'R', 'E', 'E'] then some .free
  else none

/-! ### Statements -/

/-- The mnemonics, pseudo-instructions and directives of R70 and R71. -/
inductive Mnemonic where
  | nop
  | setStepMode
  | turnSteps
  | turnInfinite
  | stop
  | continueMovement
  | tick
  | ticks
  | waitMs
  | idle
  | reset
  | word64
  deriving DecidableEq, Repr

/-- The spelling of each mnemonic, in capitals (R70, R71). -/
def mnemonicTable : List (List Char × Mnemonic) :=
  [("NOP".toList, .nop), ("SET_STEP_MODE".toList, .setStepMode), ("TURN_STEPS".toList, .turnSteps),
   ("TURN_INFINITE".toList, .turnInfinite), ("STOP".toList, .stop), ("CONTINUE_MOVEMENT".toList, .continueMovement),
   ("TICK".toList, .tick), ("TICKS".toList, .ticks), ("WAIT_MS".toList, .waitMs), ("IDLE".toList, .idle),
   ("RESET".toList, .reset), (".WORD64".toList, .word64)]

/-- The mnemonic that a word spells. -/
def parseMnemonic (w : List Char) : Option Mnemonic :=
  (mnemonicTable.find? fun row => decide (row.1 = w)).map fun row => row.2

/-- A command statement from its mnemonic and operands; a missing or extra operand is rejected (R70). -/
def parseCmd (m : Mnemonic) (operands : List (List Char)) : Option CmdStmt :=
  match m, operands with
  | .nop, [] => some .nop
  | .setStepMode, [a] => (parseMode a).map .setStepMode
  | .turnSteps, [a, b, c] =>
    match parseNumber a, parseNumber b, parseDir c with
    | some n, some v, some d => some (.turnSteps n v d)
    | _, _, _ => none
  | .turnInfinite, [a, b] =>
    match parseNumber a, parseDir b with
    | some v, some d => some (.turnInfinite v d)
    | _, _ => none
  | .stop, [a] => (parseStop a).map .stop
  | .continueMovement, [a] => (parseDir a).map .continueMovement
  | .word64, [a] => (parseNumber a).map .word64
  | _, _ => none

/-- A statement without `& TICK`. -/
def parseSimple (m : Mnemonic) (operands : List (List Char)) : Option Stmt :=
  match m, operands with
  | .tick, [] => some .tick
  | .reset, [] => some .reset
  | .ticks, [a] => (parseNumber a).map .ticks
  | .waitMs, [a] => (parseNumber a).map .waitMs
  | .idle, [a] => (parseNumber a).map .idle
  | m, operands => (parseCmd m operands).map .cmd

/-- The rest of a statement after its mnemonic: whether `& TICK` ends it, and its operands, separated by commas. -/
def parseOperands : List Token → Option (List (List Char) × Bool)
  | [] => some ([], false)
  | [.ampersand, .word t] => if t = ['T', 'I', 'C', 'K'] then some ([], true) else none
  | [.word a] => some ([a], false)
  | [.word a, .ampersand, .word t] => if t = ['T', 'I', 'C', 'K'] then some ([a], true) else none
  | .word a :: .comma :: .word b :: rest =>
    match parseOperands (.word b :: rest) with
    | some (ops, t) => some (a :: ops, t)
    | none => none
  | _ => none

/-- The statement of one line of tokens; `none` if there is none of that form. -/
def parseTokens : List Token → Option Stmt
  | .word w :: rest =>
    match parseMnemonic w, parseOperands rest with
    | some m, some (ops, false) => parseSimple m ops
    | some m, some (ops, true) => (parseCmd m ops).map .cmdAndTick
    | _, _ => none
  | _ => none

/-- Why a source text is rejected; `line` counts from 0. -/
inductive AsmError where
  /-- The line is no statement of R70 or R71: an unknown mnemonic or keyword, or a missing or extra operand. -/
  | notAStatement (line : Nat)
  /-- A number does not fit its field (R70). -/
  | outOfRange (line : Nat)
  deriving DecidableEq, Repr

/-- The statements of the lines from number `line` on; a line with nothing on it but a comment is skipped. -/
def parseLines : List (List Char) → Nat → Except AsmError (List Stmt)
  | [], _ => .ok []
  | l :: ls, line =>
    match tokenize l [], parseLines ls (line + 1) with
    | [], rest => rest
    | toks, rest =>
      match parseTokens toks with
      | none => .error (.notAStatement line)
      | some st =>
        if st.wellFormed then
          match rest with
          | .ok sts => .ok (st :: sts)
          | .error e => .error e
        else .error (.outOfRange line)

/-- The cycles that a source text stands for, or the first line that is rejected (R70, R71). -/
def assemble (source : List Char) : Except AsmError (List CycleInput) :=
  match parseLines (splitLines source []) 0 with
  | .ok sts => .ok (sts.flatMap stmtCycles)
  | .error e => .error e

end Sys2Proof.Machine
end

