-- ==== Sys2Proof/Machine/Status.lean ====
section
/-! DEFINITION. The output ports (20_memory.md R43): the status port (10_state.md R34), `phase_out` and `out_commit`, each
with the bit encoding the spec gives. Every output is a function of the registers, and reading one has no effect (R48). -/

namespace Sys2Proof.Machine

/-- `st_index` (R21, R34). -/
def indexBits : Index → BitVec 4
  | some i => BitVec.ofNat 4 i.val
  | none => idxUninit

/-- `st_mode` (R22, R34). -/
def stepModeBits : StepMode → BitVec 2
  | .wave => 0b00#2
  | .full => 0b01#2
  | .half => 0b10#2

/-- `st_dir` (R23, R34). -/
def directionBit : Direction → BitVec 1
  | .cw => 0#1
  | .ccw => 1#1

/-- `st_stop` (R24, R34). -/
def stopModeBits : StopMode → BitVec 2
  | .free => 0b00#2
  | .torque => 0b01#2
  | .turning => 0b10#2

/-- Every output of the block (R43). -/
structure Outputs where
  phaseOut : BitVec 4
  outCommit : BitVec 1
  stIndex : BitVec 4
  stMode : BitVec 2
  stDir : BitVec 1
  stStop : BitVec 2
  stTotal : BitVec 32
  stRemaining : BitVec 32
  stInfinite : BitVec 1
  stSpeed : BitVec 16
  stElapsed : BitVec 10
  stErr : BitVec 3
  stDone : BitVec 1
  deriving DecidableEq, Repr

/-- What the output ports show after the most recent clock edge (R33, R34). -/
def State.outputs (s : State) : Outputs where
  phaseOut := s.phaseOut
  outCommit := BitVec.ofBool s.outCommit
  stIndex := indexBits s.currentIndex
  stMode := stepModeBits s.stepMode
  stDir := directionBit s.direction
  stStop := stopModeBits s.stopMode
  stTotal := s.totalSteps
  stRemaining := s.remainingSteps
  stInfinite := BitVec.ofBool s.isInfinite
  stSpeed := s.speed
  stElapsed := s.elapsedMs
  stErr := s.err
  stDone := BitVec.ofBool s.stDone

end Sys2Proof.Machine
end

