-- ==== Sys2Proof/Safety.lean ====
section
/-! DEFINITION. The terms in which claims speak of a run: the invariant of the registers, and what counts as a run without a
recorded precondition violation. -/

namespace Sys2Proof.Machine

/-- The row-parity rule (R37): with an index set, WAVE is on an even row and FULL on an odd one. Before the first
SET_STEP_MODE the index is the sentinel and the mode HALF. -/
def State.parityOk (s : State) : Bool :=
  match s.currentIndex, s.stepMode with
  | none, m => decide (m = .half)
  | some i, .wave => decide (i.val % 2 = 0)
  | some i, .full => decide (i.val % 2 = 1)
  | some _, .half => true

/-- The states that runs from reset stay in: no stored speed of 0 (R28), `elapsed_ms` at most 999 between ticks (R35), and
the row parity (R37). -/
def State.Inv (s : State) : Prop :=
  s.speed ≠ 0#16 ∧ s.elapsedMs.toNat ≤ ticksPerSecond - 1 ∧ s.parityOk = true

/-- A state in which a precondition violation is recorded (93_implementation_defined.md U2): `ERR_UNINIT` is set. -/
def State.faulted (s : State) : Bool := s.hasError .uninit

/-- `k` steps, one clock cycle each. -/
def run : Nat → State → Result
  | 0, s => .next s
  | k + 1, s => andThen (step s) (run k)

/-- `k` steps from `s` all of whose states, `s` among them, have no recorded precondition violation. -/
def safeRun : Nat → State → Prop
  | 0, s => s.faulted = false
  | k + 1, s => s.faulted = false ∧ ∀ t, step s = .next t → safeRun k t

/-! ### Counting ticks while `speed` stays (R130), from a state with `elapsed_ms = e0` -/

/-- How many ticks there are from one step decision to the next. -/
def period (speed : Speed) : Nat := max 1 (interval speed)

/-- On which tick the first step decision falls. -/
def firstDecision (speed : Speed) (e0 : Nat) : Nat := max 1 (interval speed - e0)

/-- How many step decisions `m` ticks make. -/
def decisionsIn (speed : Speed) (e0 m : Nat) : Nat :=
  if m < firstDecision speed e0 then 0 else (m - firstDecision speed e0) / period speed + 1

/-- What `elapsed_ms` holds after `m` ticks. -/
def elapsedAfter (speed : Speed) (e0 m : Nat) : Nat :=
  if m < firstDecision speed e0 then e0 + m else (m - firstDecision speed e0) % period speed

end Sys2Proof.Machine
end

