-- ==== Sys2Proof/Certificates/Slice0/Obligations.lean ====
section
/-! DEFINITION. The statements for the provers, each with the rule of spec/ that it formalises. A statement whose docstring
says "inference" rests on a rule that the spec itself marks as derived from others. Nothing here rests on a value of a free
value, and nothing but DefaultTableContents on the contents of the phase table: elsewhere it is any table. -/

open Sys2Proof Sys2Proof.Machine

/-! ### The cycle, reset and the ports -/

/-- R143: reset beats everything, a command applies before a tick in the same cycle, and the tick sees its writes. -/
def Obligations.CycleRunsCommandThenTick : Prop :=
  ∀ (c : CycleInput) (s : State),
    (c.rst = true → cycle c s = .next (resetRegisters s)) ∧
    (c.rst = false → ∃ s1,
      (if c.cmdValid = true then exec (decodeWord c.cmdWord) s = .next s1 else s1 = s) ∧
      cycle c s = if c.tick = true then exec .tick { s1 with outCommit := false } else .next { s1 with outCommit := false })

/-- A step is the cycle that the ports carry next (R11, R42), and so it runs the instruction they carry: a command, and then
`out_commit` falls; a tick, on the state with `out_commit` at 0 (R143). That the ports' values stand in a list in the state
is the model's choice, log entry 1. -/
def Obligations.StepRunsPresentedInstruction : Prop :=
  (∀ (c : CycleInput) (rest : List CycleInput) (s : State), s.inputs = c :: rest →
    step s = cycle c { s with inputs := rest }) ∧
  ∀ (i : Instr) (rest : List CycleInput) (s : State), s.inputs = encode i :: rest →
    (i.isCommand = true →
      ∃ t, exec i { s with inputs := rest } = .next t ∧ step s = .next { t with outCommit := false }) ∧
    (i = .tick → step s = exec .tick { s with inputs := rest, outCommit := false })

/-- R160: every register takes its reset value, the command and the tick of the cycle are discarded, and nothing but reset
clears a bit of `err`. -/
def Obligations.ResetCycleSetsEveryRegister : Prop :=
  (∀ (c : CycleInput) (s : State), c.rst = true →
    cycle c s = .next
      { currentIndex := none, stopMode := .free, stepMode := .half, direction := .cw, totalSteps := 0#32,
        remainingSteps := 0#32, isInfinite := false, speed := 1#16, elapsedMs := 0#10, phaseOut := 0b0000#4,
        outCommit := false, err := 0b000#3, phaseTable := s.phaseTable, inputs := s.inputs }) ∧
  ∀ (c : CycleInput) (s t : State), cycle c s = .next t →
    (∃ k, s.err.getLsbD k = true ∧ t.err.getLsbD k = false) → c.rst = true

/-- R71: `IDLE k` changes no state except `out_commit <- 0`. That a state with nothing listed for its ports is idle too is
the model's choice, log entry 2. -/
def Obligations.IdleCyclesOnlyClearCommit : Prop :=
  ∀ (k : Nat) (rest : List CycleInput) (s : State), s.inputs = List.replicate k CycleInput.quiet ++ rest → 0 < k →
    run k s = .next { s with outCommit := false, inputs := rest } ∧
    (rest = [] → ∀ j, run (k + j) s = .next { s with outCommit := false, inputs := [] })

/-- R140: no command and no tick is ever aborted; each completes, and so does every cycle. -/
def Obligations.EveryInstructionAndStepCompletes : Prop :=
  (∀ (i : Instr) (s : State), ∃ t, exec i s = .next t) ∧ ∀ s : State, ∃ t, step s = .next t

/-! ### Decoding and encoding -/

/-- R62, R63: `cmd_word[2:0]` selects the row, and each operand is one field of the word, read as an unsigned integer. -/
def Obligations.DecodeReadsOpcodeAndFields : Prop :=
  ∀ w : Word,
    (w.toNat % 8 = 0 → decodeWord w = .nop) ∧
    (w.toNat % 8 = 1 → decodeWord w = .setStepMode
      (if w.toNat / 2 ^ 3 % 4 = 0 then .wave else if w.toNat / 2 ^ 3 % 4 = 1 then .full
        else if w.toNat / 2 ^ 3 % 4 = 2 then .half else .reserved)) ∧
    (w.toNat % 8 = 2 → decodeWord w = .turnSteps (BitVec.ofNat 32 (w.toNat / 2 ^ 32))
      (BitVec.ofNat 16 (w.toNat / 2 ^ 16 % 2 ^ 16)) (if w.toNat / 2 ^ 5 % 2 = 0 then .cw else .ccw)) ∧
    (w.toNat % 8 = 3 → decodeWord w = .turnInfinite (BitVec.ofNat 16 (w.toNat / 2 ^ 16 % 2 ^ 16))
      (if w.toNat / 2 ^ 5 % 2 = 0 then .cw else .ccw)) ∧
    (w.toNat % 8 = 4 → decodeWord w = .stop (if w.toNat / 2 ^ 6 % 2 = 0 then .torque else .free)) ∧
    (w.toNat % 8 = 5 → decodeWord w = .continueMovement (if w.toNat / 2 ^ 5 % 2 = 0 then .cw else .ccw)) ∧
    (w.toNat % 8 = 6 → decodeWord w = .reserved6) ∧
    (w.toNat % 8 = 7 → decodeWord w = .reserved7)

/-- R66: a word's instruction depends on its opcode and on the fields that the opcode's row of R61 uses, and on no other
bit. Each pair is an opcode and the mask of those bits. -/
def Obligations.DecodeIgnoresUnusedBits : Prop :=
  ∀ row ∈ [(0, 0x7#64), (1, 0x1F#64), (2, 0xFFFFFFFFFFFF0027#64), (3, 0xFFFF0027#64), (4, 0x47#64), (5, 0x27#64),
      (6, 0x7#64), (7, 0x7#64)],
    ∀ w w' : Word, w.toNat % 8 = row.1 → w &&& row.2 = w' &&& row.2 → decodeWord w = decodeWord w'

/-- Decoding what the encoder puts on the ports gives the instruction back, for every instruction with every value of its
operands, the reserved forms and the tick among them; and for a command the word alone does. -/
def Obligations.DecodeEncodeRoundTrip : Prop :=
  ∀ i : Instr, decodeCycle (encode i) = [i] ∧ ∀ w, encodeWord i = some w → decodeWord w = i

/-- The words of R72 and of the vectors V-ENC1 to V-ENC9, as the spec writes them out. -/
def Obligations.DecodeKnownWords : Prop :=
  decodeWord 0xFFFFFFFFFFFFFFF8#64 = .nop ∧
  decodeWord 0x0000000000000009#64 = .setStepMode .full ∧
  decodeWord 0x0000000000000019#64 = .setStepMode .reserved ∧
  decodeWord 0x0000000A03E80002#64 = .turnSteps 10 1000 .cw ∧
  decodeWord 0x0000000000050022#64 = .turnSteps 0 5 .ccw ∧
  decodeWord 0x0000000007D00023#64 = .turnInfinite 2000 .ccw ∧
  decodeWord 0x000000000000FF84#64 = .stop .torque ∧
  decodeWord 0x0000000000000044#64 = .stop .free ∧
  decodeWord 0x0000000000000025#64 = .continueMovement .ccw ∧
  decodeWord 0x0000000000000006#64 = .reserved6 ∧
  decodeWord 0x0000000000000007#64 = .reserved7

/-- R45: byte `k` of the transport is `cmd_word[8k+7:8k]`, and the eight bytes carry the word. -/
def Obligations.ByteTransportIsLittleEndian : Prop :=
  ∀ w : Word, (∀ k < 8, (bytesOfWord w)[k]? = some (BitVec.ofNat 8 (w.toNat / 2 ^ (8 * k)))) ∧
    (bytesOfWord w).length = 8 ∧ wordOfBytes (bytesOfWord w) = .ok w ∧ decodeBytes (bytesOfWord w) = .ok (decodeWord w)

/-- R70: a well-formed command statement presents a word that decodes to the command it spells, its numbers unchanged. -/
def Obligations.SpelledCommandsDecodeBack : Prop :=
  (∀ m, decodeWord (cmdWord (.setStepMode m)) = .setStepMode (operandOfMode m)) ∧
  (∀ n v d, (CmdStmt.turnSteps n v d).wellFormed = true →
    ∃ n' v', decodeWord (cmdWord (.turnSteps n v d)) = .turnSteps n' v' d ∧ n'.toNat = n ∧ v'.toNat = v) ∧
  (∀ v d, (CmdStmt.turnInfinite v d).wellFormed = true →
    ∃ v', decodeWord (cmdWord (.turnInfinite v d)) = .turnInfinite v' d ∧ v'.toNat = v) ∧
  (∀ m, decodeWord (cmdWord (.stop m)) = .stop m) ∧
  (∀ d, decodeWord (cmdWord (.continueMovement d)) = .continueMovement d) ∧
  decodeWord (cmdWord .nop) = .nop

/-! ### Configuration commands and reserved encodings -/

/-- R90, R67: NOP changes nothing, with any value in the other 61 bits, and with a tick in the same cycle it is a bare
tick. -/
def Obligations.NopChangesNothing : Prop :=
  (∀ s : State, exec .nop s = .next s) ∧
  ∀ w : Word, w.toNat % 8 = 0 →
    decodeWord w = .nop ∧ ∀ s : State, cycle (.commandAndTick w) s = cycle .tickOnly s

/-- SET_STEP_MODE with a valid mode (R91): the mode is stored and the index repaired, and nothing else is written. -/
def Obligations.SetStepModeRepairsIndex : Prop :=
  ∀ s : State,
    exec (.setStepMode .wave) s = .next
      { s with
        stepMode := .wave
        currentIndex := some (match s.currentIndex with
          | none => 0
          | some i => if i.val % 2 = 1 then i - 1 else i) } ∧
    exec (.setStepMode .full) s = .next
      { s with
        stepMode := .full
        currentIndex := some (match s.currentIndex with
          | none => 1
          | some i => if i.val % 2 = 0 then i + 1 else i) } ∧
    exec (.setStepMode .half) s = .next
      { s with
        stepMode := .half
        currentIndex := some (match s.currentIndex with
          | none => 0
          | some i => i) }

/-- Corner cases of R91 (inference: the spec marks them so): a valid SET_STEP_MODE leaves the parity of its mode, moves a
set index by at most one position and never wraps, and leaves an index of the right parity where it is. -/
def Obligations.ModeSwitchMovesAtMostOne : Prop :=
  ∀ (m : StepMode) (s : State), ∃ t j, exec (.setStepMode (operandOfMode m)) s = .next t ∧ t.currentIndex = some j ∧
    t.stepMode = m ∧ t.parityOk = true ∧
    ∀ i : Fin 8, s.currentIndex = some i →
      (j.val ≤ i.val + 1 ∧ i.val ≤ j.val + 1) ∧ (s.parityOk = true → s.stepMode = m → j = i)

/-- R65: a SET_STEP_MODE whose mode field is `2'b11` raises `ERR_CMD` and changes nothing else; no other command reads the
field. -/
def Obligations.ReservedModeOnlyFlags : Prop :=
  (∀ w : Word, w.toNat % 8 = 1 → w.toNat / 2 ^ 3 % 4 = 3 → decodeWord w = .setStepMode .reserved) ∧
  (∀ s : State, exec (.setStepMode .reserved) s = .next { s with err := s.err ||| 0b001#3 }) ∧
  ∀ w : Word, w.toNat % 8 ≠ 1 → decodeWord (w ||| 0x18#64) = decodeWord w

/-- R64: the reserved opcodes change no register but `err`, raise `ERR_CMD`, and a tick in the same cycle still happens. -/
def Obligations.ReservedOpcodesOnlyFlag : Prop :=
  (∀ s : State, exec .reserved6 s = .next { s with err := s.err ||| 0b001#3 } ∧
    exec .reserved7 s = .next { s with err := s.err ||| 0b001#3 }) ∧
  ∀ w : Word, 6 ≤ w.toNat % 8 →
    (w.toNat % 8 = 6 → decodeWord w = .reserved6) ∧ (w.toNat % 8 = 7 → decodeWord w = .reserved7) ∧
    ∀ s : State, cycle (.commandAndTick w) s = exec .tick { s with err := s.err ||| 0b001#3, outCommit := false }

/-! ### Movement commands -/

/-- TURN_STEPS (R101, with the clamp of R100): every register it writes, and all others kept. -/
def Obligations.TurnStepsStartsFiniteTurn : Prop :=
  ∀ (n : StepCount) (v : Speed) (d : Direction) (s : State),
    exec (.turnSteps n v d) s = .next
      { s with
        direction := d
        totalSteps := n
        remainingSteps := n
        isInfinite := false
        speed := if v = 0#16 then 1#16 else v
        err := if v = 0#16 then s.err ||| 0b010#3 else s.err
        stopMode := .turning }

/-- TURN_INFINITE (R102, with the clamp of R100): `total_steps` and `remaining_steps` are kept. -/
def Obligations.TurnInfiniteStartsInfiniteTurn : Prop :=
  ∀ (v : Speed) (d : Direction) (s : State),
    exec (.turnInfinite v d) s = .next
      { s with
        direction := d
        isInfinite := true
        speed := if v = 0#16 then 1#16 else v
        err := if v = 0#16 then s.err ||| 0b010#3 else s.err
        stopMode := .turning }

/-- R100: a speed operand of 0 is stored as 1 and raises `ERR_SPEED`, and the command still runs; no speed above 0 is
changed or flagged; speeds above 1000 are legal and give an interval of 0. -/
def Obligations.SpeedOperandIsClamped : Prop :=
  ∀ i : Instr, ∀ v : Speed, ((∃ n d, i = .turnSteps n v d) ∨ ∃ d, i = .turnInfinite v d) →
    ∀ s : State, ∃ t, exec i s = .next t ∧ t.stopMode = .turning ∧
      (v = 0#16 → t.speed = 1#16 ∧ t.err = s.err ||| 0b010#3) ∧
      (v ≠ 0#16 → t.speed = v ∧ t.err = s.err) ∧
      (1000 < v.toNat → interval t.speed = 0)

/-- STOP (R103): only `stop_mode` is written. -/
def Obligations.StopWritesStopModeOnly : Prop :=
  ∀ s : State, exec (.stop .torque) s = .next { s with stopMode := .torque } ∧
    exec (.stop .free) s = .next { s with stopMode := .free }

/-- The source's examples 4 and 5 (95_test_vectors.md section 1): a repeated STOP is a single one, and STOP TORQUE followed
by CONTINUE_MOVEMENT in the same direction puts a turning block back where it was. -/
def Obligations.StopIsIdempotentAndResumable : Prop :=
  (∀ (m : StopOperand) (s t : State), exec (.stop m) s = .next t → exec (.stop m) t = .next t) ∧
  ∀ (m : StopOperand) (s t : State), s.stopMode = .turning → exec (.stop m) s = .next t →
    exec (.continueMovement s.direction) t = .next s

/-- CONTINUE_MOVEMENT (R104): nothing while TURNING; else TURNING, and with another direction `total_steps` becomes
`total_steps - remaining_steps` modulo 2^32, `remaining_steps` kept. -/
def Obligations.ContinueMovementResumes : Prop :=
  ∀ (d : Direction) (s : State),
    (s.stopMode = .turning → exec (.continueMovement d) s = .next s) ∧
    (s.stopMode ≠ .turning → d = s.direction → exec (.continueMovement d) s = .next { s with stopMode := .turning }) ∧
    (s.stopMode ≠ .turning → d ≠ s.direction → ∀ total : StepCount,
      (total.toNat : Int) = ((s.totalSteps.toNat : Int) - s.remainingSteps.toNat) % 2 ^ 32 →
      exec (.continueMovement d) s = .next { s with totalSteps := total, direction := d, stopMode := .turning })

/-- R105 (inference): the `stop_mode` that each instruction leaves; a tick never changes it. -/
def Obligations.StopModeTransitions : Prop :=
  ∀ (i : Instr) (s t : State), exec i s = .next t →
    t.stopMode = match i with
      | .turnSteps _ _ _ => .turning
      | .turnInfinite _ _ => .turning
      | .stop .torque => .torque
      | .stop .free => .free
      | .continueMovement _ => .turning
      | .nop => s.stopMode
      | .setStepMode _ => s.stopMode
      | .reserved6 => s.stopMode
      | .reserved7 => s.stopMode
      | .tick => s.stopMode

/-- R106: no command writes `elapsed_ms`, `phase_out` or `out_commit`; the outputs change only at step decisions; and the
compare of a tick uses the `speed` that is stored then. -/
def Obligations.CommandsLeaveOutputsAlone : Prop :=
  (∀ (i : Instr) (s t : State), i.isCommand = true → exec i s = .next t →
    t.elapsedMs = s.elapsedMs ∧ t.phaseOut = s.phaseOut ∧ t.outCommit = s.outCommit) ∧
  (∀ s : State, s.elapsedMs.toNat + 1 < interval s.speed →
    ∃ t, exec .tick s = .next t ∧ t.phaseOut = s.phaseOut ∧ t.outCommit = false) ∧
  (∀ s : State, s.speed ≠ 0#16 → s.elapsedMs.toNat + 1 < interval s.speed →
    ∃ t, exec .tick s = .next t ∧ t.elapsedMs.toNat = s.elapsedMs.toNat + 1) ∧
  ∀ s : State, interval s.speed ≤ s.elapsedMs.toNat + 1 → ∃ t, exec .tick s = .next t ∧ t.elapsedMs = 0#10

/-- Which instructions can change which register, and when: 10_state.md R21 to R28, and the three error bits of R32. A tick
changes an index or a count only as a step decision of an active turn, and `ERR_UNINIT` only as one in TORQUE or in an active
turn, with no index. -/
def Obligations.RegisterWriters : Prop :=
  ∀ (i : Instr) (s t : State), exec i s = .next t →
    (t.currentIndex ≠ s.currentIndex → (∃ m, i = .setStepMode m) ∨
      i = .tick ∧ interval s.speed ≤ s.elapsedMs.toNat + 1 ∧ s.stopMode = .turning ∧
        (s.isInfinite = true ∨ s.remainingSteps ≠ 0#32)) ∧
    (t.stepMode ≠ s.stepMode → ∃ m, i = .setStepMode m) ∧
    (t.direction ≠ s.direction →
      (∃ n v d, i = .turnSteps n v d) ∨ (∃ v d, i = .turnInfinite v d) ∨ ∃ d, i = .continueMovement d) ∧
    (t.stopMode ≠ s.stopMode → (∃ n v d, i = .turnSteps n v d) ∨ (∃ v d, i = .turnInfinite v d) ∨
      (∃ m, i = .stop m) ∨ ∃ d, i = .continueMovement d) ∧
    (t.totalSteps ≠ s.totalSteps → (∃ n v d, i = .turnSteps n v d) ∨ ∃ d, i = .continueMovement d ∧ d ≠ s.direction) ∧
    (t.remainingSteps ≠ s.remainingSteps → (∃ n v d, i = .turnSteps n v d) ∨
      i = .tick ∧ interval s.speed ≤ s.elapsedMs.toNat + 1 ∧ s.stopMode = .turning ∧ s.isInfinite = false ∧
        s.remainingSteps ≠ 0#32) ∧
    (t.isInfinite ≠ s.isInfinite → (∃ n v d, i = .turnSteps n v d) ∨ ∃ v d, i = .turnInfinite v d) ∧
    (t.speed ≠ s.speed → (∃ n v d, i = .turnSteps n v d) ∨ ∃ v d, i = .turnInfinite v d) ∧
    (t.err.getLsbD 0 ≠ s.err.getLsbD 0 → i = .reserved6 ∨ i = .reserved7 ∨ i = .setStepMode .reserved) ∧
    (t.err.getLsbD 1 ≠ s.err.getLsbD 1 → (∃ n d, i = .turnSteps n 0#16 d) ∨ ∃ d, i = .turnInfinite 0#16 d) ∧
    (t.err.getLsbD 2 ≠ s.err.getLsbD 2 → i = .tick ∧ interval s.speed ≤ s.elapsedMs.toNat + 1 ∧ s.currentIndex = none ∧
      (s.stopMode = .torque ∨ s.stopMode = .turning ∧ (s.isInfinite = true ∨ s.remainingSteps ≠ 0#32)))

/-- R27: TURN_STEPS writes 0 to `is_infinite`, TURN_INFINITE writes 1, nothing else writes it, and reset leaves 0. -/
def Obligations.InfiniteFlagWriters : Prop :=
  (∀ (i : Instr) (s t : State), exec i s = .next t →
    t.isInfinite = match i with
      | .turnSteps _ _ _ => false
      | .turnInfinite _ _ => true
      | .nop => s.isInfinite
      | .setStepMode _ => s.isInfinite
      | .stop _ => s.isInfinite
      | .continueMovement _ => s.isInfinite
      | .reserved6 => s.isInfinite
      | .reserved7 => s.isInfinite
      | .tick => s.isInfinite) ∧
  State.reset.isInfinite = false

/-! ### The tick -/

/-- R121, the tick that is no step decision: `elapsed_ms` counts, there is no commit, and nothing else changes. -/
def Obligations.TickBelowIntervalCounts : Prop :=
  ∀ s : State, s.speed ≠ 0#16 → s.elapsedMs.toNat + 1 < 1000 / s.speed.toNat →
    exec .tick s = .next { s with elapsedMs := s.elapsedMs + 1#10, outCommit := false }

/-- R123: a step decision in FREE commits the off pattern, whatever the index. -/
def Obligations.FreeDecisionCommitsOff : Prop :=
  ∀ s : State, s.speed ≠ 0#16 → 1000 / s.speed.toNat ≤ s.elapsedMs.toNat + 1 → s.stopMode = .free →
    exec .tick s = .next { s with elapsedMs := 0#10, phaseOut := 0b0000#4, outCommit := true }

/-- R123: a step decision in TORQUE commits the row at the index, which stays. -/
def Obligations.TorqueDecisionCommitsRow : Prop :=
  ∀ (s : State) (i : Fin 8), s.speed ≠ 0#16 → 1000 / s.speed.toNat ≤ s.elapsedMs.toNat + 1 → s.stopMode = .torque →
    s.currentIndex = some i →
    exec .tick s = .next { s with elapsedMs := 0#10, phaseOut := romRow s.phaseTable i, outCommit := true }

/-- R124, R127: a step decision in an active turn moves the index by the direction's sign times the mode's skip factor,
modulo 8, commits the row at the new index, and counts a finite turn down. -/
def Obligations.ActiveDecisionAdvances : Prop :=
  ∀ (s : State) (i j : Fin 8), s.speed ≠ 0#16 → 1000 / s.speed.toNat ≤ s.elapsedMs.toNat + 1 → s.stopMode = .turning →
    (s.isInfinite = true ∨ s.remainingSteps ≠ 0#32) → s.currentIndex = some i →
    (j.val : Int) = ((i.val : Int) + (if s.direction = .cw then 1 else -1) * (if s.stepMode = .half then 1 else 2)) % 8 →
    exec .tick s = .next
      { s with
        elapsedMs := 0#10
        currentIndex := some j
        phaseOut := romRow s.phaseTable j
        outCommit := true
        remainingSteps := if s.isInfinite = true then s.remainingSteps else s.remainingSteps - 1#32 }

/-- R125: a step decision of a completed turn commits nothing and writes nothing but `elapsed_ms`, with any index. -/
def Obligations.CompletedDecisionDoesNothing : Prop :=
  ∀ s : State, s.speed ≠ 0#16 → 1000 / s.speed.toNat ≤ s.elapsedMs.toNat + 1 → s.stopMode = .turning →
    s.isInfinite = false → s.remainingSteps = 0#32 →
    exec .tick s = .next { s with elapsedMs := 0#10, outCommit := false }

/-- R126: a step decision in TORQUE or in an active turn with no index raises `ERR_UNINIT`: no commit, no advance, no
decrement. -/
def Obligations.UninitDecisionFlags : Prop :=
  ∀ s : State, s.speed ≠ 0#16 → 1000 / s.speed.toNat ≤ s.elapsedMs.toNat + 1 →
    (s.stopMode = .torque ∨ s.stopMode = .turning ∧ (s.isInfinite = true ∨ s.remainingSteps ≠ 0#32)) →
    s.currentIndex = none →
    exec .tick s = .next { s with elapsedMs := 0#10, outCommit := false, err := s.err ||| 0b100#3 }

/-- R121 to R126: a tick completes in every state, at any speed; it never writes the six registers named here, and of `err`
it writes bit 2 only, and only to 1. -/
def Obligations.TickFrame : Prop :=
  ∀ s : State, ∃ t, exec .tick s = .next t ∧ t.stepMode = s.stepMode ∧ t.direction = s.direction ∧
    t.stopMode = s.stopMode ∧ t.totalSteps = s.totalSteps ∧ t.isInfinite = s.isInfinite ∧ t.speed = s.speed ∧
    t.phaseTable = s.phaseTable ∧ t.inputs = s.inputs ∧ (t.err = s.err ∨ t.err = s.err ||| 0b100#3)

/-! ### The operations the rules name -/

/-- R120: `interval(speed)` is the largest number that times the speed is at most 1000, with the values of the table. -/
def Obligations.IntervalIsFloorOfThousandth : Prop :=
  (∀ v : Speed, v ≠ 0#16 → interval v * v.toNat ≤ 1000 ∧ 1000 < (interval v + 1) * v.toNat) ∧
  interval 1#16 = 1000 ∧ interval 2#16 = 500 ∧ interval 3#16 = 333 ∧ interval 7#16 = 142 ∧ interval 250#16 = 4 ∧
  (∀ v : Speed, 334 ≤ v.toNat → v.toNat ≤ 500 → interval v = 2) ∧
  (∀ v : Speed, 501 ≤ v.toNat → v.toNat ≤ 1000 → interval v = 1) ∧
  ∀ v : Speed, 1001 ≤ v.toNat → interval v = 0

/-- R83, R82: the selector gives the off pattern whatever the index and the table, and else the row at the index. -/
def Obligations.PhaseTableMuxSelects : Prop :=
  (∀ (rom : PhaseTable) (idx : Index), phaseTableMux rom true idx = 0b0000#4) ∧
  ∀ (rom : PhaseTable) (i : Fin 8), romRow rom i = rom[i] ∧ phaseTableMux rom false (some i) = romRow rom i

/-- The eight rows of the default table (R81), read through the selector from the table that State.reset holds, with the
example of R83 among them. That State.reset holds this table is the model's choice, log entry 3 (PRESUMED): the spec leaves
PHASE_TABLE open, and R81 marks the contents as general knowledge and not in the source. -/
def Obligations.DefaultTableContents : Prop :=
  ∀ row ∈ [((0 : Fin 8), 0b0001#4), (1, 0b0011#4), (2, 0b0010#4), (3, 0b0110#4), (4, 0b0100#4), (5, 0b1100#4),
      (6, 0b1000#4), (7, 0b1001#4)],
    phaseTableMux State.reset.phaseTable false (some row.1) = row.2

/-- The signed increments of R127, and the index adder of R128: the sum modulo 8, and (inference, which the spec marks in R128
as derived from R10) the same as the 3-bit sum with the carry dropped. -/
def Obligations.IndexAdderIsThreeBitSum : Prop :=
  skipFactor .wave = 2 ∧ skipFactor .full = 2 ∧ skipFactor .half = 1 ∧ dirSign .cw = 1 ∧ dirSign .ccw = -1 ∧
  delta .cw .wave = 2 ∧ delta .cw .full = 2 ∧ delta .cw .half = 1 ∧
  delta .ccw .wave = -2 ∧ delta .ccw .full = -2 ∧ delta .ccw .half = -1 ∧
  deltaBits .cw .half = 0b001#3 ∧ deltaBits .cw .wave = 0b010#3 ∧ deltaBits .ccw .half = 0b111#3 ∧
  deltaBits .ccw .full = 0b110#3 ∧
  ∀ (i : Fin 8) (d : Direction) (m : StepMode),
    ((indexAdd i (delta d m)).val : Int) = ((i.val : Int) + delta d m) % 8 ∧
    BitVec.ofNat 3 (indexAdd i (delta d m)).val = BitVec.ofNat 3 i.val + deltaBits d m

/-- R33: `st_done` is 1 exactly in the completed sub-state. -/
def Obligations.DoneOutputIsCompletedTurn : Prop :=
  ∀ s : State, s.outputs.stDone = 1#1 ↔ s.stopMode = .turning ∧ s.isInfinite = false ∧ s.remainingSteps = 0#32

/-- R34, with the encodings of R20 to R24: every register shows on its output, so two states with the same outputs have the
same registers. -/
def Obligations.StatusPortShowsEveryRegister : Prop :=
  (∀ s : State, (∀ i : Fin 8, s.currentIndex = some i → s.outputs.stIndex.toNat = i.val) ∧
    (s.currentIndex = none → s.outputs.stIndex = 8#4) ∧
    s.outputs.stMode = (match s.stepMode with | .wave => 0b00#2 | .full => 0b01#2 | .half => 0b10#2) ∧
    s.outputs.stDir = (match s.direction with | .cw => 0#1 | .ccw => 1#1) ∧
    s.outputs.stStop = (match s.stopMode with | .free => 0b00#2 | .torque => 0b01#2 | .turning => 0b10#2) ∧
    s.outputs.stTotal = s.totalSteps ∧ s.outputs.stRemaining = s.remainingSteps ∧
    (s.outputs.stInfinite = 1#1 ↔ s.isInfinite = true) ∧ s.outputs.stSpeed = s.speed ∧
    s.outputs.stElapsed = s.elapsedMs ∧ s.outputs.stErr = s.err ∧ (s.outputs.stDone = 1#1 ↔ s.stDone = true) ∧
    s.outputs.phaseOut = s.phaseOut ∧ (s.outputs.outCommit = 1#1 ↔ s.outCommit = true)) ∧
  ∀ s t : State, s.outputs = t.outputs → s.phaseTable = t.phaseTable → s.inputs = t.inputs → s = t

/-! ### Rules about the whole machine -/

/-- R28, R35, R37 (R35 and R37 are inferences): every step keeps a speed of at least 1, `elapsed_ms` at most 999 between
ticks, and the row parity. -/
def Obligations.StepKeepsRegisterBounds : Prop :=
  ∀ s t : State, s.Inv → step s = .next t → t.Inv

/-- The reset state meets the invariant of StepKeepsRegisterBounds (R21, R22, R28, R29, R160). -/
def Obligations.ResetMeetsRegisterBounds : Prop := State.reset.Inv

/-- R50, R30: a cycle without reset that ends with `out_commit = 0` has kept `phase_out`, and one without a tick ends so. -/
def Obligations.OutputHoldsBetweenCommits : Prop :=
  ∀ (c : CycleInput) (s t : State), c.rst = false → cycle c s = .next t →
    (t.outCommit = false → t.phaseOut = s.phaseOut) ∧ (c.tick = false → t.outCommit = false)

/-- R123, R124, R143 together: after any step from any state, a commit that shows on the outputs is of the off pattern in
FREE, and else of the ROM's row at the index that the state then holds. -/
def Obligations.CommittedPatternMatchesIndex : Prop :=
  ∀ s t : State, step s = .next t → t.outCommit = true →
    (t.stopMode = .free ∧ t.phaseOut = 0b0000#4) ∨
    (t.stopMode ≠ .free ∧ ∃ i : Fin 8, t.currentIndex = some i ∧ t.phaseOut = romRow t.phaseTable i)

/-- R146: a command or a tick never clears a bit of `err`, and neither does a cycle without reset; a cycle with reset
clears them all. -/
def Obligations.ErrorBitsAreSticky : Prop :=
  (∀ (i : Instr) (s t : State), exec i s = .next t → ∀ k, s.err.getLsbD k = true → t.err.getLsbD k = true) ∧
  (∀ (c : CycleInput) (s t : State), c.rst = false → cycle c s = .next t →
    ∀ k, s.err.getLsbD k = true → t.err.getLsbD k = true) ∧
  ∀ (c : CycleInput) (s t : State), c.rst = true → cycle c s = .next t → t.err = 0b000#3

/-- R142 (inference): a cycle can raise an error in its command phase and `ERR_UNINIT` in its tick phase, and all bits
raised in it are set together. -/
def Obligations.ErrorsOfOneCycleAreOred : Prop :=
  ∀ (w : Word) (s : State), s.speed ≠ 0#16 → 1000 / s.speed.toNat ≤ s.elapsedMs.toNat + 1 → s.stopMode = .torque →
    s.currentIndex = none → 6 ≤ w.toNat % 8 →
    ∃ t, cycle (.commandAndTick w) s = .next t ∧ t.err = s.err ||| 0b101#3

/-- R44: the ROM has no write port: no step changes it, reset among them. -/
def Obligations.RomIsNeverWritten : Prop :=
  ∀ (k : Nat) (s t : State), run k s = .next t → t.phaseTable = s.phaseTable

/-- R25 (inference): `total_steps` feeds no other register. Two states that differ in it only go, over any number of steps,
to states that differ in it only. -/
def Obligations.TotalStepsFeedsNothingElse : Prop :=
  ∀ (k : Nat) (s t : State) (n : StepCount), run k s = .next t →
    ∃ m, run k { s with totalSteps := n } = .next { t with totalSteps := m }

/-- R38: `remaining_steps <= total_steps` is no invariant of the block: one cycle with a CONTINUE_MOVEMENT breaks it. -/
def Obligations.RemainingMayExceedTotal : Prop :=
  ¬ ∀ s t : State, s.Inv → s.remainingSteps.toNat ≤ s.totalSteps.toNat → step s = .next t →
    t.remainingSteps.toNat ≤ t.totalSteps.toNat

/-- 93_implementation_defined.md U2 and R162 step 3: once a step mode is set and `ERR_UNINIT` is clear, no run without reset
records a precondition violation. The hypothesis rules out a reset on the listed port values; that there is none in the steps
past the end of the list is the model's choice, log entry 2 (the ports are quiet there). -/
def Obligations.ModeOnceSetNeverUninit : Prop :=
  ∀ (k : Nat) (s : State), (∀ c ∈ s.inputs, c.rst = false) → s.currentIndex ≠ none → s.faulted = false → safeRun k s

/-! ### Runs of ticks -/

/-- R130 (inference): while `speed` stays, the first step decision falls on tick `max(1, interval - e0)` and the next ones
`max(1, interval)` ticks apart: after any number of ticks `elapsed_ms` holds what that spacing gives, and it holds 0
exactly after the ticks that are step decisions. -/
def Obligations.StepDecisionSpacing : Prop :=
  ∀ (m : Nat) (rest : List CycleInput) (s : State), s.speed ≠ 0#16 →
    s.inputs = List.replicate m CycleInput.tickOnly ++ rest →
    ∃ t, run m s = .next t ∧ t.inputs = rest ∧ t.speed = s.speed ∧
      t.elapsedMs.toNat = elapsedAfter s.speed s.elapsedMs.toNat m

/-- R131 (inference): TURN_STEPS n with an index, followed only by ticks, makes exactly `n` advances, one per step decision,
each of the direction's sign times the skip factor, and each commits the row at the new index; it ends with
`remaining_steps = 0`, and `st_done` is 1 then and not before. `u` is the speed that is stored, `a` the advances made. -/
def Obligations.FiniteTurnMakesExactlyItsSteps : Prop :=
  ∀ (n : StepCount) (v u : Speed) (d : Direction) (m a : Nat) (rest : List CycleInput) (s : State) (i : Fin 8),
    u = (if v = 0#16 then 1#16 else v) → a = min n.toNat (decisionsIn u s.elapsedMs.toNat m) →
    s.inputs = encode (.turnSteps n v d) :: (List.replicate m CycleInput.tickOnly ++ rest) → s.currentIndex = some i →
    ∃ t j, run (m + 1) s = .next t ∧ t.inputs = rest ∧
      t.remainingSteps.toNat = n.toNat - a ∧
      t.currentIndex = some j ∧
      (j.val : Int) = ((i.val : Int) +
        (a : Int) * ((if d = .cw then 1 else -1) * (if s.stepMode = .half then 1 else 2))) % 8 ∧
      t.phaseOut = (if a = 0 then s.phaseOut else romRow s.phaseTable j) ∧
      (t.outCommit = true ↔ 0 < m ∧ elapsedAfter u s.elapsedMs.toNat m = 0 ∧
        decisionsIn u s.elapsedMs.toNat m ≤ n.toNat) ∧
      (t.stDone = true ↔ n.toNat ≤ decisionsIn u s.elapsedMs.toNat m)

/-- R125 over a run: in the completed sub-state any number of ticks changes nothing but `elapsed_ms` and `out_commit`, with
no commit; and CONTINUE_MOVEMENT does nothing either (R170, inference). -/
def Obligations.CompletedTurnStaysPut : Prop :=
  ∀ s : State, s.stDone = true →
    (∀ (m : Nat) (rest : List CycleInput), s.inputs = List.replicate (m + 1) CycleInput.tickOnly ++ rest →
      ∃ e, run (m + 1) s = .next { s with elapsedMs := e, outCommit := false, inputs := rest }) ∧
    ∀ d, exec (.continueMovement d) s = .next s

/-- R166 (inference): after STOP FREE the lines keep the last pattern until the next step decision, at most
`max(1, interval)` ticks later, which commits the off pattern; the position is kept. -/
def Obligations.StopFreeReleasesAtNextDecision : Prop :=
  ∀ (m : Nat) (rest : List CycleInput) (s : State), s.speed ≠ 0#16 →
    s.inputs = encode (.stop .free) :: (List.replicate m CycleInput.tickOnly ++ rest) →
    ∃ t, run (m + 1) s = .next t ∧ t.currentIndex = s.currentIndex ∧ t.remainingSteps = s.remainingSteps ∧
      t.direction = s.direction ∧
      (m < firstDecision s.speed s.elapsedMs.toNat → t.phaseOut = s.phaseOut) ∧
      (firstDecision s.speed s.elapsedMs.toNat ≤ m → t.phaseOut = 0b0000#4) ∧
      firstDecision s.speed s.elapsedMs.toNat ≤ period s.speed
end

