-- ==== Sys2Proof/Laws/Decode.lean ====
section
/-! SUPPORT. The fields of a word as arithmetic on its value (30_encoding.md R61, R63), and each field of a packed word. -/

namespace Sys2Proof

/-- The value of a concatenation, its left part in the high bits (00_scope.md R8). -/
theorem toNat_concat {a b : Nat} (x : BitVec a) (y : BitVec b) : (x ++ y).toNat = x.toNat * 2 ^ b + y.toNat := by
  rw [BitVec.toNat_append, ← Nat.shiftLeft_add_eq_or_of_lt y.isLt, Nat.shiftLeft_eq]

/-- The value of a packed word. -/
theorem packWord_toNat (steps : StepCount) (speed : Speed) (fr dir : BitVec 1) (mode : BitVec 2) (op : BitVec 3) :
    (packWord steps speed fr dir mode op).toNat =
      steps.toNat * 2 ^ 32 + speed.toNat * 2 ^ 16 + fr.toNat * 2 ^ 6 + dir.toNat * 2 ^ 5 + mode.toNat * 2 ^ 3 + op.toNat := by
  unfold packWord
  refine (toNat_concat (steps ++ speed ++ 0#9 ++ fr ++ dir ++ mode) op).trans ?_
  simp only [toNat_concat]
  simp
  omega

theorem opField_toNat (w : Word) : (opField w).toNat = w.toNat % 2 ^ 3 := by
  simp [opField, BitVec.extractLsb'_toNat]

theorem modeField_toNat (w : Word) : (modeField w).toNat = w.toNat / 2 ^ 3 % 2 ^ 2 := by
  simp [modeField, BitVec.extractLsb'_toNat, Nat.shiftRight_eq_div_pow]

theorem dirField_eq (w : Word) : dirField w = decide (w.toNat / 2 ^ 5 % 2 = 1) := by
  simp [dirField, BitVec.getLsbD, Nat.testBit_eq_decide_div_mod_eq]

theorem frField_eq (w : Word) : frField w = decide (w.toNat / 2 ^ 6 % 2 = 1) := by
  simp [frField, BitVec.getLsbD, Nat.testBit_eq_decide_div_mod_eq]

theorem speedField_toNat (w : Word) : (speedField w).toNat = w.toNat / 2 ^ 16 % 2 ^ 16 := by
  simp [speedField, BitVec.extractLsb'_toNat, Nat.shiftRight_eq_div_pow]

theorem stepsField_toNat (w : Word) : (stepsField w).toNat = w.toNat / 2 ^ 32 := by
  have := w.isLt
  simp [stepsField, BitVec.extractLsb'_toNat, Nat.shiftRight_eq_div_pow]
  omega

section Packed

variable (steps : StepCount) (speed : Speed) (fr dir : BitVec 1) (mode : BitVec 2) (op : BitVec 3)

@[simp] theorem opField_packWord : opField (packWord steps speed fr dir mode op) = op := by
  apply BitVec.eq_of_toNat_eq
  rw [opField_toNat, packWord_toNat]
  omega

@[simp] theorem modeField_packWord : modeField (packWord steps speed fr dir mode op) = mode := by
  apply BitVec.eq_of_toNat_eq
  rw [modeField_toNat, packWord_toNat]
  omega

@[simp] theorem dirField_packWord : dirField (packWord steps speed fr dir mode op) = decide (dir = 1#1) := by
  rw [dirField_eq, packWord_toNat, decide_eq_decide, ← BitVec.toNat_inj]
  simp
  omega

@[simp] theorem frField_packWord : frField (packWord steps speed fr dir mode op) = decide (fr = 1#1) := by
  rw [frField_eq, packWord_toNat, decide_eq_decide, ← BitVec.toNat_inj]
  simp
  omega

@[simp] theorem speedField_packWord : speedField (packWord steps speed fr dir mode op) = speed := by
  apply BitVec.eq_of_toNat_eq
  rw [speedField_toNat, packWord_toNat]
  omega

@[simp] theorem stepsField_packWord : stepsField (packWord steps speed fr dir mode op) = steps := by
  apply BitVec.eq_of_toNat_eq
  rw [stepsField_toNat, packWord_toNat]
  omega

end Packed

@[simp] theorem decodeMode_encodeMode (m : ModeOperand) : decodeMode (encodeMode m) = m := by cases m <;> rfl

@[simp] theorem decodeDir_encodeDir (d : Direction) : decodeDir (decide (encodeDir d = 1#1)) = d := by cases d <;> rfl

@[simp] theorem decodeStop_encodeStop (m : StopOperand) : decodeStop (decide (encodeStop m = 1#1)) = m := by
  cases m <;> rfl

end Sys2Proof
end

