-- ==== Sys2Proof/Laws/State.lean ====
section
/-! SUPPORT. What each update of the state does to each field, one lemma per field and update, so that no later proof
unfolds a record update. -/

namespace Sys2Proof.Machine

/-! ### raiseError -/

@[simp] theorem raiseError_currentIndex (e : ErrorCode) (s : State) : (raiseError e s).currentIndex = s.currentIndex := rfl
@[simp] theorem raiseError_stepMode (e : ErrorCode) (s : State) : (raiseError e s).stepMode = s.stepMode := rfl
@[simp] theorem raiseError_direction (e : ErrorCode) (s : State) : (raiseError e s).direction = s.direction := rfl
@[simp] theorem raiseError_stopMode (e : ErrorCode) (s : State) : (raiseError e s).stopMode = s.stopMode := rfl
@[simp] theorem raiseError_totalSteps (e : ErrorCode) (s : State) : (raiseError e s).totalSteps = s.totalSteps := rfl
@[simp] theorem raiseError_remainingSteps (e : ErrorCode) (s : State) : (raiseError e s).remainingSteps = s.remainingSteps := rfl
@[simp] theorem raiseError_isInfinite (e : ErrorCode) (s : State) : (raiseError e s).isInfinite = s.isInfinite := rfl
@[simp] theorem raiseError_speed (e : ErrorCode) (s : State) : (raiseError e s).speed = s.speed := rfl
@[simp] theorem raiseError_elapsedMs (e : ErrorCode) (s : State) : (raiseError e s).elapsedMs = s.elapsedMs := rfl
@[simp] theorem raiseError_phaseOut (e : ErrorCode) (s : State) : (raiseError e s).phaseOut = s.phaseOut := rfl
@[simp] theorem raiseError_outCommit (e : ErrorCode) (s : State) : (raiseError e s).outCommit = s.outCommit := rfl
@[simp] theorem raiseError_err (e : ErrorCode) (s : State) : (raiseError e s).err = s.err ||| errorMask e := rfl
@[simp] theorem raiseError_phaseTable (e : ErrorCode) (s : State) : (raiseError e s).phaseTable = s.phaseTable := rfl
@[simp] theorem raiseError_inputs (e : ErrorCode) (s : State) : (raiseError e s).inputs = s.inputs := rfl

/-! ### commit -/

@[simp] theorem commit_currentIndex (p : Pattern) (s : State) : (commit p s).currentIndex = s.currentIndex := rfl
@[simp] theorem commit_stepMode (p : Pattern) (s : State) : (commit p s).stepMode = s.stepMode := rfl
@[simp] theorem commit_direction (p : Pattern) (s : State) : (commit p s).direction = s.direction := rfl
@[simp] theorem commit_stopMode (p : Pattern) (s : State) : (commit p s).stopMode = s.stopMode := rfl
@[simp] theorem commit_totalSteps (p : Pattern) (s : State) : (commit p s).totalSteps = s.totalSteps := rfl
@[simp] theorem commit_remainingSteps (p : Pattern) (s : State) : (commit p s).remainingSteps = s.remainingSteps := rfl
@[simp] theorem commit_isInfinite (p : Pattern) (s : State) : (commit p s).isInfinite = s.isInfinite := rfl
@[simp] theorem commit_speed (p : Pattern) (s : State) : (commit p s).speed = s.speed := rfl
@[simp] theorem commit_elapsedMs (p : Pattern) (s : State) : (commit p s).elapsedMs = s.elapsedMs := rfl
@[simp] theorem commit_phaseOut (p : Pattern) (s : State) : (commit p s).phaseOut = p := rfl
@[simp] theorem commit_outCommit (p : Pattern) (s : State) : (commit p s).outCommit = true := rfl
@[simp] theorem commit_err (p : Pattern) (s : State) : (commit p s).err = s.err := rfl
@[simp] theorem commit_phaseTable (p : Pattern) (s : State) : (commit p s).phaseTable = s.phaseTable := rfl
@[simp] theorem commit_inputs (p : Pattern) (s : State) : (commit p s).inputs = s.inputs := rfl

/-! ### clearCommit -/

@[simp] theorem clearCommit_currentIndex (s : State) : (clearCommit s).currentIndex = s.currentIndex := rfl
@[simp] theorem clearCommit_stepMode (s : State) : (clearCommit s).stepMode = s.stepMode := rfl
@[simp] theorem clearCommit_direction (s : State) : (clearCommit s).direction = s.direction := rfl
@[simp] theorem clearCommit_stopMode (s : State) : (clearCommit s).stopMode = s.stopMode := rfl
@[simp] theorem clearCommit_totalSteps (s : State) : (clearCommit s).totalSteps = s.totalSteps := rfl
@[simp] theorem clearCommit_remainingSteps (s : State) : (clearCommit s).remainingSteps = s.remainingSteps := rfl
@[simp] theorem clearCommit_isInfinite (s : State) : (clearCommit s).isInfinite = s.isInfinite := rfl
@[simp] theorem clearCommit_speed (s : State) : (clearCommit s).speed = s.speed := rfl
@[simp] theorem clearCommit_elapsedMs (s : State) : (clearCommit s).elapsedMs = s.elapsedMs := rfl
@[simp] theorem clearCommit_phaseOut (s : State) : (clearCommit s).phaseOut = s.phaseOut := rfl
@[simp] theorem clearCommit_outCommit (s : State) : (clearCommit s).outCommit = false := rfl
@[simp] theorem clearCommit_err (s : State) : (clearCommit s).err = s.err := rfl
@[simp] theorem clearCommit_phaseTable (s : State) : (clearCommit s).phaseTable = s.phaseTable := rfl
@[simp] theorem clearCommit_inputs (s : State) : (clearCommit s).inputs = s.inputs := rfl

/-! ### setElapsed -/

@[simp] theorem setElapsed_currentIndex (e : Nat) (s : State) : (setElapsed e s).currentIndex = s.currentIndex := rfl
@[simp] theorem setElapsed_stepMode (e : Nat) (s : State) : (setElapsed e s).stepMode = s.stepMode := rfl
@[simp] theorem setElapsed_direction (e : Nat) (s : State) : (setElapsed e s).direction = s.direction := rfl
@[simp] theorem setElapsed_stopMode (e : Nat) (s : State) : (setElapsed e s).stopMode = s.stopMode := rfl
@[simp] theorem setElapsed_totalSteps (e : Nat) (s : State) : (setElapsed e s).totalSteps = s.totalSteps := rfl
@[simp] theorem setElapsed_remainingSteps (e : Nat) (s : State) : (setElapsed e s).remainingSteps = s.remainingSteps := rfl
@[simp] theorem setElapsed_isInfinite (e : Nat) (s : State) : (setElapsed e s).isInfinite = s.isInfinite := rfl
@[simp] theorem setElapsed_speed (e : Nat) (s : State) : (setElapsed e s).speed = s.speed := rfl
@[simp] theorem setElapsed_elapsedMs (e : Nat) (s : State) : (setElapsed e s).elapsedMs = BitVec.ofNat 10 e := rfl
@[simp] theorem setElapsed_phaseOut (e : Nat) (s : State) : (setElapsed e s).phaseOut = s.phaseOut := rfl
@[simp] theorem setElapsed_outCommit (e : Nat) (s : State) : (setElapsed e s).outCommit = s.outCommit := rfl
@[simp] theorem setElapsed_err (e : Nat) (s : State) : (setElapsed e s).err = s.err := rfl
@[simp] theorem setElapsed_phaseTable (e : Nat) (s : State) : (setElapsed e s).phaseTable = s.phaseTable := rfl
@[simp] theorem setElapsed_inputs (e : Nat) (s : State) : (setElapsed e s).inputs = s.inputs := rfl

/-! ### resetRegisters -/

@[simp] theorem resetRegisters_currentIndex (s : State) : (resetRegisters s).currentIndex = none := rfl
@[simp] theorem resetRegisters_stepMode (s : State) : (resetRegisters s).stepMode = .half := rfl
@[simp] theorem resetRegisters_direction (s : State) : (resetRegisters s).direction = .cw := rfl
@[simp] theorem resetRegisters_stopMode (s : State) : (resetRegisters s).stopMode = .free := rfl
@[simp] theorem resetRegisters_totalSteps (s : State) : (resetRegisters s).totalSteps = 0#32 := rfl
@[simp] theorem resetRegisters_remainingSteps (s : State) : (resetRegisters s).remainingSteps = 0#32 := rfl
@[simp] theorem resetRegisters_isInfinite (s : State) : (resetRegisters s).isInfinite = false := rfl
@[simp] theorem resetRegisters_speed (s : State) : (resetRegisters s).speed = 1#16 := rfl
@[simp] theorem resetRegisters_elapsedMs (s : State) : (resetRegisters s).elapsedMs = 0#10 := rfl
@[simp] theorem resetRegisters_phaseOut (s : State) : (resetRegisters s).phaseOut = 0b0000#4 := rfl
@[simp] theorem resetRegisters_outCommit (s : State) : (resetRegisters s).outCommit = false := rfl
@[simp] theorem resetRegisters_err (s : State) : (resetRegisters s).err = 0b000#3 := rfl
@[simp] theorem resetRegisters_phaseTable (s : State) : (resetRegisters s).phaseTable = s.phaseTable := rfl
@[simp] theorem resetRegisters_inputs (s : State) : (resetRegisters s).inputs = s.inputs := rfl

/-! ### flagSpeed and foldReversal: all that they write is `err`, and `total_steps` with `direction` -/

@[simp] theorem flagSpeed_currentIndex (v : Speed) (s : State) : (flagSpeed v s).currentIndex = s.currentIndex := by
  unfold flagSpeed; split <;> rfl
@[simp] theorem flagSpeed_stepMode (v : Speed) (s : State) : (flagSpeed v s).stepMode = s.stepMode := by
  unfold flagSpeed; split <;> rfl
@[simp] theorem flagSpeed_direction (v : Speed) (s : State) : (flagSpeed v s).direction = s.direction := by
  unfold flagSpeed; split <;> rfl
@[simp] theorem flagSpeed_stopMode (v : Speed) (s : State) : (flagSpeed v s).stopMode = s.stopMode := by
  unfold flagSpeed; split <;> rfl
@[simp] theorem flagSpeed_totalSteps (v : Speed) (s : State) : (flagSpeed v s).totalSteps = s.totalSteps := by
  unfold flagSpeed; split <;> rfl
@[simp] theorem flagSpeed_remainingSteps (v : Speed) (s : State) : (flagSpeed v s).remainingSteps = s.remainingSteps := by
  unfold flagSpeed; split <;> rfl
@[simp] theorem flagSpeed_isInfinite (v : Speed) (s : State) : (flagSpeed v s).isInfinite = s.isInfinite := by
  unfold flagSpeed; split <;> rfl
@[simp] theorem flagSpeed_speed (v : Speed) (s : State) : (flagSpeed v s).speed = s.speed := by
  unfold flagSpeed; split <;> rfl
@[simp] theorem flagSpeed_elapsedMs (v : Speed) (s : State) : (flagSpeed v s).elapsedMs = s.elapsedMs := by
  unfold flagSpeed; split <;> rfl
@[simp] theorem flagSpeed_phaseOut (v : Speed) (s : State) : (flagSpeed v s).phaseOut = s.phaseOut := by
  unfold flagSpeed; split <;> rfl
@[simp] theorem flagSpeed_outCommit (v : Speed) (s : State) : (flagSpeed v s).outCommit = s.outCommit := by
  unfold flagSpeed; split <;> rfl
@[simp] theorem flagSpeed_err (v : Speed) (s : State) :
    (flagSpeed v s).err = if v = 0#16 then s.err ||| errorMask .speed else s.err := by
  unfold flagSpeed; split <;> rfl
@[simp] theorem flagSpeed_phaseTable (v : Speed) (s : State) : (flagSpeed v s).phaseTable = s.phaseTable := by
  unfold flagSpeed; split <;> rfl
@[simp] theorem flagSpeed_inputs (v : Speed) (s : State) : (flagSpeed v s).inputs = s.inputs := by
  unfold flagSpeed; split <;> rfl

@[simp] theorem foldReversal_currentIndex (d : Direction) (s : State) : (foldReversal d s).currentIndex = s.currentIndex := by
  unfold foldReversal; split <;> rfl
@[simp] theorem foldReversal_stepMode (d : Direction) (s : State) : (foldReversal d s).stepMode = s.stepMode := by
  unfold foldReversal; split <;> rfl
@[simp] theorem foldReversal_direction (d : Direction) (s : State) : (foldReversal d s).direction = d := by
  unfold foldReversal; split
  · next h => exact h.symm
  · rfl
@[simp] theorem foldReversal_stopMode (d : Direction) (s : State) : (foldReversal d s).stopMode = s.stopMode := by
  unfold foldReversal; split <;> rfl
@[simp] theorem foldReversal_totalSteps (d : Direction) (s : State) :
    (foldReversal d s).totalSteps = if d = s.direction then s.totalSteps else s.totalSteps - s.remainingSteps := by
  unfold foldReversal; split <;> rfl
@[simp] theorem foldReversal_remainingSteps (d : Direction) (s : State) : (foldReversal d s).remainingSteps = s.remainingSteps := by
  unfold foldReversal; split <;> rfl
@[simp] theorem foldReversal_isInfinite (d : Direction) (s : State) : (foldReversal d s).isInfinite = s.isInfinite := by
  unfold foldReversal; split <;> rfl
@[simp] theorem foldReversal_speed (d : Direction) (s : State) : (foldReversal d s).speed = s.speed := by
  unfold foldReversal; split <;> rfl
@[simp] theorem foldReversal_elapsedMs (d : Direction) (s : State) : (foldReversal d s).elapsedMs = s.elapsedMs := by
  unfold foldReversal; split <;> rfl
@[simp] theorem foldReversal_phaseOut (d : Direction) (s : State) : (foldReversal d s).phaseOut = s.phaseOut := by
  unfold foldReversal; split <;> rfl
@[simp] theorem foldReversal_outCommit (d : Direction) (s : State) : (foldReversal d s).outCommit = s.outCommit := by
  unfold foldReversal; split <;> rfl
@[simp] theorem foldReversal_err (d : Direction) (s : State) : (foldReversal d s).err = s.err := by
  unfold foldReversal; split <;> rfl
@[simp] theorem foldReversal_phaseTable (d : Direction) (s : State) : (foldReversal d s).phaseTable = s.phaseTable := by
  unfold foldReversal; split <;> rfl
@[simp] theorem foldReversal_inputs (d : Direction) (s : State) : (foldReversal d s).inputs = s.inputs := by
  unfold foldReversal; split <;> rfl

/-! ### Outcomes and the ports -/

@[simp] theorem andThen_next (s : State) (f : State → Result) : andThen (.next s) f = f s := rfl

theorem nextInput_nil (s : State) (h : s.inputs = []) : nextInput s = (CycleInput.quiet, s) := by
  unfold nextInput; rw [h]

theorem nextInput_cons (s : State) (c : CycleInput) (rest : List CycleInput) (h : s.inputs = c :: rest) :
    nextInput s = (c, { s with inputs := rest }) := by
  unfold nextInput; rw [h]

end Sys2Proof.Machine
end

