-- ==== Sys2Proof/Laws/Ops.lean ====
section
/-! SUPPORT. One lemma per shared operation that says all it can do; later proofs cite these and do not unfold. -/

namespace Sys2Proof.Machine

/-! ### The ROM and its selector (40_phase_table.md) -/

@[simp] theorem memRead_some (rom : PhaseTable) (i : Fin 8) : memRead rom (some i) = romRow rom i := rfl

@[simp] theorem phaseTableMux_off (rom : PhaseTable) (idx : Index) : phaseTableMux rom true idx = 0#4 := rfl

@[simp] theorem phaseTableMux_row (rom : PhaseTable) (i : Fin 8) : phaseTableMux rom false (some i) = romRow rom i := rfl

/-! ### The interval (43_tick.md R120) -/

theorem interval_of_ne_zero {v : Speed} (h : v ≠ 0#16) : interval v = 1000 / v.toNat := by
  unfold interval ticksPerSecond
  rw [if_neg h]

theorem interval_le {v : Speed} (h : v ≠ 0#16) : interval v ≤ 1000 := by
  rw [interval_of_ne_zero h]
  exact Nat.div_le_self _ _

theorem clampSpeed_ne_zero (v : Speed) : clampSpeed v ≠ 0#16 := by
  unfold clampSpeed
  split
  · decide
  · assumption

/-! ### The index adder (43_tick.md R127, R128) -/

theorem indexAdd_val (i : Fin 8) (d : Int) : ((indexAdd i d).val : Int) = ((i.val : Int) + d) % 8 := by
  have h1 : 0 ≤ ((i.val : Int) + d) % 8 := Int.emod_nonneg _ (by decide)
  have h2 : ((i.val : Int) + d) % 8 < 8 := Int.emod_lt_of_pos _ (by decide)
  simp only [indexAdd, numRows, Fin.ofNat]
  omega

theorem delta_cases (d : Direction) (m : StepMode) :
    (m = .half ∧ (delta d m = 1 ∨ delta d m = -1)) ∨ (m ≠ .half ∧ (delta d m = 2 ∨ delta d m = -2)) := by
  cases d <;> cases m <;> decide

/-! ### The count of a turn (43_tick.md R122, R129) -/

theorem active_iff (s : State) : s.active = true ↔ s.isInfinite = true ∨ s.remainingSteps ≠ 0#32 := by
  unfold State.active
  simp

@[simp] theorem active_setElapsed (e : Nat) (s : State) : (setElapsed e s).active = s.active := rfl

@[simp] theorem active_clearCommit (s : State) : (clearCommit s).active = s.active := rfl

@[simp] theorem countStep_infinite (r : StepCount) : countStep true r = r := rfl

theorem countStep_finite {r : StepCount} (h : r ≠ 0#32) : countStep false r = r - 1#32 := by
  simp [countStep, decFloor0, h]

/-! ### The step decision and the tick (43_tick.md R121 to R126) -/

/-- Everything a step decision can do. -/
theorem stepDecision_cases (s : State) :
    (s.stopMode = .free ∧ stepDecision s = commit 0#4 s) ∨
    (∃ i, s.stopMode = .torque ∧ s.currentIndex = some i ∧ stepDecision s = commit (romRow s.phaseTable i) s) ∨
    (∃ i, s.stopMode = .turning ∧ s.active = true ∧ s.currentIndex = some i ∧
      stepDecision s = commit (romRow s.phaseTable (indexAdd i (delta s.direction s.stepMode)))
        { s with
          currentIndex := some (indexAdd i (delta s.direction s.stepMode))
          remainingSteps := countStep s.isInfinite s.remainingSteps }) ∨
    (s.stopMode = .turning ∧ s.active = false ∧ stepDecision s = s) ∨
    ((s.stopMode = .torque ∨ s.stopMode = .turning ∧ s.active = true) ∧ s.currentIndex = none ∧
      stepDecision s = raiseError .uninit s) := by
  unfold stepDecision
  cases hm : s.stopMode with
  | free => exact .inl ⟨rfl, rfl⟩
  | torque =>
    cases hi : s.currentIndex with
    | none => exact .inr (.inr (.inr (.inr ⟨.inl rfl, rfl, by simp [holdTorque, hi, uninit]⟩)))
    | some i => exact .inr (.inl ⟨i, rfl, rfl, by simp [holdTorque, hi]⟩)
  | turning =>
    cases ha : s.active with
    | false => exact .inr (.inr (.inr (.inl ⟨rfl, rfl, by simp [completed]⟩)))
    | true =>
      cases hi : s.currentIndex with
      | none => exact .inr (.inr (.inr (.inr ⟨.inr ⟨rfl, rfl⟩, rfl, by simp [advance, hi, uninit]⟩)))
      | some i => exact .inr (.inr (.inl ⟨i, rfl, rfl, rfl, by simp [advance, hi, hm]⟩))

/-- What no step decision writes. -/
theorem stepDecision_keeps (s : State) :
    (stepDecision s).stepMode = s.stepMode ∧ (stepDecision s).direction = s.direction ∧
    (stepDecision s).stopMode = s.stopMode ∧ (stepDecision s).totalSteps = s.totalSteps ∧
    (stepDecision s).isInfinite = s.isInfinite ∧ (stepDecision s).speed = s.speed ∧
    (stepDecision s).elapsedMs = s.elapsedMs ∧ (stepDecision s).phaseTable = s.phaseTable ∧
    (stepDecision s).inputs = s.inputs := by
  obtain ⟨-, h⟩ | ⟨i, -, -, h⟩ | ⟨i, -, -, -, h⟩ | ⟨-, -, h⟩ | ⟨-, -, h⟩ := stepDecision_cases s <;>
    simp only [h, commit_stepMode, commit_direction, commit_stopMode, commit_totalSteps, commit_isInfinite, commit_speed,
      commit_elapsedMs, commit_phaseTable, commit_inputs, raiseError_stepMode, raiseError_direction, raiseError_stopMode,
      raiseError_totalSteps, raiseError_isInfinite, raiseError_speed, raiseError_elapsedMs, raiseError_phaseTable,
      raiseError_inputs, and_self]

/-- Everything a tick can do: it counts, or it makes a step decision. -/
theorem execTick_cases (s : State) :
    (s.elapsedMs.toNat + 1 < interval s.speed ∧
      execTick s = .next (setElapsed (s.elapsedMs.toNat + 1) (clearCommit s))) ∨
    (interval s.speed ≤ s.elapsedMs.toNat + 1 ∧ execTick s = .next (stepDecision (setElapsed 0 (clearCommit s)))) := by
  unfold execTick
  by_cases h : s.elapsedMs.toNat + 1 < interval s.speed
  · exact .inl ⟨h, by simp [h]⟩
  · exact .inr ⟨by omega, by simp [h]⟩

end Sys2Proof.Machine
end

