-- ==== Sys2Proof/Laws/Exec.lean ====
section
/-! SUPPORT. What exec calls for each instruction, what the cycle does with it, and all that a step can do. -/

namespace Sys2Proof.Machine

@[simp] theorem exec_nop (s : State) : exec .nop s = .next s := rfl
@[simp] theorem exec_setStepMode (m : ModeOperand) (s : State) : exec (.setStepMode m) s = execSetStepMode m s := rfl
@[simp] theorem exec_turnSteps (n : StepCount) (v : Speed) (d : Direction) (s : State) :
    exec (.turnSteps n v d) s = execTurnSteps n v d s := rfl
@[simp] theorem exec_turnInfinite (v : Speed) (d : Direction) (s : State) :
    exec (.turnInfinite v d) s = execTurnInfinite v d s := rfl
@[simp] theorem exec_stop (m : StopOperand) (s : State) : exec (.stop m) s = execStop m s := rfl
@[simp] theorem exec_continueMovement (d : Direction) (s : State) :
    exec (.continueMovement d) s = execContinueMovement d s := rfl
@[simp] theorem exec_reserved6 (s : State) : exec .reserved6 s = .next (raiseError .cmd s) := rfl
@[simp] theorem exec_reserved7 (s : State) : exec .reserved7 s = .next (raiseError .cmd s) := rfl
@[simp] theorem exec_tick (s : State) : exec .tick s = execTick s := rfl

/-- Everything SET_STEP_MODE can do (41_configuration.md R91). -/
theorem execSetStepMode_cases (m : ModeOperand) (s : State) :
    (m = .reserved ∧ execSetStepMode m s = .next (raiseError .cmd s)) ∨
    (∃ sm, modeOfOperand m = some sm ∧
      execSetStepMode m s = .next { s with stepMode := sm, currentIndex := some (repairIndex sm s.currentIndex) }) := by
  cases m
  · exact .inr ⟨.wave, rfl, rfl⟩
  · exact .inr ⟨.full, rfl, rfl⟩
  · exact .inr ⟨.half, rfl, rfl⟩
  · exact .inl ⟨rfl, rfl⟩

/-- Everything CONTINUE_MOVEMENT can do (42_movement.md R104). -/
theorem execContinueMovement_cases (d : Direction) (s : State) :
    (s.stopMode = .turning ∧ execContinueMovement d s = .next s) ∨
    (s.stopMode ≠ .turning ∧ execContinueMovement d s = .next { foldReversal d s with stopMode := .turning }) := by
  unfold execContinueMovement
  by_cases h : s.stopMode = .turning
  · exact .inl ⟨h, by simp [h]⟩
  · exact .inr ⟨h, by simp [h]⟩

/-- A cycle under reset (60_exceptions.md R143). -/
theorem cycle_of_rst {c : CycleInput} (h : c.rst = true) (s : State) : cycle c s = .next (resetRegisters s) := by
  unfold cycle; rw [if_pos h]

/-- A cycle without reset: the command phase, then the tick phase (60_exceptions.md R143). -/
theorem cycle_of_not_rst {c : CycleInput} (h : c.rst = false) (s : State) :
    cycle c s = andThen (commandPhase c s) (tickPhase c) := by
  unfold cycle; rw [if_neg (by simp [h])]

/-- A bare tick (30_encoding.md R71). -/
theorem cycle_tickOnly (s : State) : cycle .tickOnly s = execTick (clearCommit s) := rfl

/-- A command without a tick (30_encoding.md R71). -/
theorem cycle_command (w : Word) (s : State) :
    cycle (.command w) s = andThen (exec (decodeWord w) s) (fun t => .next (clearCommit t)) := rfl

/-- A step takes the head of the port's list. -/
theorem step_cons {s : State} {c : CycleInput} {rest : List CycleInput} (h : s.inputs = c :: rest) :
    step s = cycle c { s with inputs := rest } := by
  unfold step; rw [nextInput_cons s c rest h]

/-- With nothing listed the ports are quiet. -/
theorem step_nil {s : State} (h : s.inputs = []) : step s = .next (clearCommit s) := by
  unfold step; rw [nextInput_nil s h]; rfl

/-- A step in one form for every list of port values. -/
theorem step_eq (s : State) : step s = cycle (s.inputs.headD .quiet) { s with inputs := s.inputs.tail } := by
  cases h : s.inputs with
  | nil =>
    have hs : { s with inputs := [] } = s := by rw [← h]
    rw [step_nil h, List.tail_nil, hs]
    rfl
  | cons c rest => rw [step_cons h]; rfl

/-- Everything a cycle that answers a next state has done. -/
theorem cycle_cases {c : CycleInput} {s t : State} (h : cycle c s = .next t) :
    (c.rst = true ∧ t = resetRegisters s) ∨
    (c.rst = false ∧ ∃ s1, (c.cmdValid = true ∧ exec (decodeWord c.cmdWord) s = .next s1 ∨ c.cmdValid = false ∧ s1 = s) ∧
      (c.tick = true ∧ execTick (clearCommit s1) = .next t ∨ c.tick = false ∧ t = clearCommit s1)) := by
  cases hr : c.rst with
  | true =>
    rw [cycle_of_rst hr] at h
    cases h
    exact .inl ⟨rfl, rfl⟩
  | false =>
    refine .inr ⟨rfl, ?_⟩
    rw [cycle_of_not_rst hr] at h
    have tickPart : ∀ s1, tickPhase c s1 = .next t →
        (c.tick = true ∧ execTick (clearCommit s1) = .next t ∨ c.tick = false ∧ t = clearCommit s1) := by
      intro s1 ht
      unfold tickPhase at ht
      cases hk : c.tick with
      | true => rw [hk] at ht; exact .inl ⟨rfl, ht⟩
      | false => rw [hk] at ht; cases ht; exact .inr ⟨rfl, rfl⟩
    cases hv : c.cmdValid with
    | false =>
      unfold commandPhase at h
      rw [hv] at h
      exact ⟨s, .inr ⟨rfl, rfl⟩, tickPart s h⟩
    | true =>
      unfold commandPhase at h
      rw [hv] at h
      cases hx : exec (decodeWord c.cmdWord) s with
      | next s1 =>
        have h' : andThen (exec (decodeWord c.cmdWord) s) (tickPhase c) = .next t := h
        rw [hx] at h'
        exact ⟨s1, .inl ⟨rfl, rfl⟩, tickPart s1 h'⟩
      | fault e => exact nomatch e
      | refused e =>
        have h' : andThen (exec (decodeWord c.cmdWord) s) (tickPhase c) = .next t := h
        rw [hx] at h'
        exact nomatch h'

/-- No word decodes to a tick (30_encoding.md R68). -/
theorem decodeWord_isCommand (w : Word) : (decodeWord w).isCommand = true := by
  unfold decodeWord
  repeat' split
  all_goals rfl

/-- What no command writes (42_movement.md R106; 20_memory.md R44). -/
theorem exec_command_keeps {i : Instr} {s t : State} (hc : i.isCommand = true) (h : exec i s = .next t) :
    t.elapsedMs = s.elapsedMs ∧ t.phaseTable = s.phaseTable ∧ t.inputs = s.inputs := by
  cases i with
  | tick => exact nomatch hc
  | setStepMode m =>
    obtain ⟨-, e⟩ | ⟨_, -, e⟩ := execSetStepMode_cases m s <;> rw [exec_setStepMode, e] at h <;> cases h <;> simp
  | continueMovement d =>
    obtain ⟨-, e⟩ | ⟨-, e⟩ := execContinueMovement_cases d s <;> rw [exec_continueMovement, e] at h <;> cases h <;> simp
  | turnSteps n v d => cases h; simp
  | turnInfinite v d => cases h; simp
  | stop m => cases h; simp
  | nop => cases h; simp
  | reserved6 => cases h; simp
  | reserved7 => cases h; simp

end Sys2Proof.Machine
end

