-- ==== Sys2Proof/Laws/PerInstr.lean ====
section
/-! SUPPORT. One statement per instruction, made constructor by constructor: its command word has the opcode of its row of
the opcode map (30_encoding.md R62) and zeros in the reserved bits (R61, R66). -/

namespace Sys2Proof.Laws.OpcodeOfRow

/-- The opcode of the instruction's row (R62); a tick has none (R68). -/
def opcode : Instr → Option Nat
  | .nop => some 0
  | .setStepMode _ => some 1
  | .turnSteps _ _ _ => some 2
  | .turnInfinite _ _ => some 3
  | .stop _ => some 4
  | .continueMovement _ => some 5
  | .reserved6 => some 6
  | .reserved7 => some 7
  | .tick => none

/-- The low three bits of the instruction's word are its row's opcode, and bits [15:7] are zero. -/
def Statement (i : Instr) : Prop :=
  (encodeWord i).map (fun w => w.toNat % 2 ^ 3) = opcode i ∧ ∀ w, encodeWord i = some w → w.toNat / 2 ^ 7 % 2 ^ 9 = 0

/-- Both parts, for a word that is packed. -/
theorem of_packWord (steps : StepCount) (speed : Speed) (fr dir : BitVec 1) (mode : BitVec 2) (op : BitVec 3) :
    (packWord steps speed fr dir mode op).toNat % 2 ^ 3 = op.toNat ∧
      (packWord steps speed fr dir mode op).toNat / 2 ^ 7 % 2 ^ 9 = 0 := by
  rw [packWord_toNat]
  omega

/-- The statement of an instruction whose word is packed from fields. -/
theorem of_encode (i : Instr) (steps : StepCount) (speed : Speed) (fr dir : BitVec 1) (mode : BitVec 2) (op : BitVec 3)
    (h : encodeWord i = some (packWord steps speed fr dir mode op)) (ho : opcode i = some op.toNat) : Statement i := by
  have hp := of_packWord steps speed fr dir mode op
  refine ⟨?_, fun w hw => ?_⟩
  · rw [h, ho, Option.map_some, hp.1]
  · rw [h] at hw
    cases hw
    exact hp.2

theorem nop : Statement .nop := of_encode _ _ _ _ _ _ _ rfl rfl
theorem setStepMode (m : ModeOperand) : Statement (.setStepMode m) := of_encode _ _ _ _ _ _ _ rfl rfl
theorem turnSteps (n : StepCount) (v : Speed) (d : Direction) : Statement (.turnSteps n v d) :=
  of_encode _ _ _ _ _ _ _ rfl rfl
theorem turnInfinite (v : Speed) (d : Direction) : Statement (.turnInfinite v d) := of_encode _ _ _ _ _ _ _ rfl rfl
theorem stop (m : StopOperand) : Statement (.stop m) := of_encode _ _ _ _ _ _ _ rfl rfl
theorem continueMovement (d : Direction) : Statement (.continueMovement d) := of_encode _ _ _ _ _ _ _ rfl rfl
theorem reserved6 : Statement .reserved6 := of_encode _ _ _ _ _ _ _ rfl rfl
theorem reserved7 : Statement .reserved7 := of_encode _ _ _ _ _ _ _ rfl rfl
theorem tick : Statement .tick := ⟨rfl, fun _ h => nomatch h⟩

end Sys2Proof.Laws.OpcodeOfRow
end

