-- ==== Sys2Proof/Tests/Slice0.lean ====
section
/-! SUPPORT. The model's own tests. Every expected result is one that spec/ writes out: the encoding examples of R72 and the
vectors of 95_test_vectors.md, named in each docstring, or worked out by hand from the rule named there. The patterns are
those of the default table (R81). The last part has a witness for every statement with hypotheses. -/

namespace Sys2Proof.Tests

open Sys2Proof Sys2Proof.Machine

/-! ### Well-formedness: an ill-formed term for each check (R70, R71) -/

theorem test_steps_out_of_range : (CmdStmt.turnSteps (2 ^ 32) 1 .cw).wellFormed = false := by decide
theorem test_turn_steps_speed_out_of_range : (CmdStmt.turnSteps 1 65536 .cw).wellFormed = false := by decide
theorem test_turn_infinite_speed_out_of_range : (CmdStmt.turnInfinite 65536 .cw).wellFormed = false := by decide
theorem test_raw_word_out_of_range : (CmdStmt.word64 (2 ^ 64)).wellFormed = false := by decide
theorem test_largest_operands_fit : (CmdStmt.turnSteps (2 ^ 32 - 1) 65535 .ccw).wellFormed = true := by decide
theorem test_statement_checks_its_command : (Stmt.cmdAndTick (.word64 (2 ^ 64))).wellFormed = false := by decide
/-- R68: a tick is not an encoded word. -/
theorem test_tick_is_no_command : Instr.tick.isCommand = false := by decide

/-! ### Decoding: words written out from the field layout of R61 -/

/-- steps = 0, speed = 0, rsv = 0, fr = 0, dir = 0, mode = 00, op = 000. -/
theorem test_decode_nop : decodeWord 0x0000000000000000#64 = .nop := by decide
/-- V-ENC2. -/
theorem test_decode_nop_all_other_bits : decodeWord 0xFFFFFFFFFFFFFFF8#64 = .nop := by decide
/-- mode = 01, op = 001: 0b01_001. -/
theorem test_decode_set_step_mode_full : decodeWord 0b01001#64 = .setStepMode .full := by decide
/-- mode = 10, op = 001: 0b10_001. -/
theorem test_decode_set_step_mode_half : decodeWord 0b10001#64 = .setStepMode .half := by decide
/-- mode = 00, op = 001, with every bit that SET_STEP_MODE ignores at 1 (R66). -/
theorem test_decode_set_step_mode_wave : decodeWord 0xFFFFFFFFFFFFFFE1#64 = .setStepMode .wave := by decide
/-- V-ENC3: mode = 11. -/
theorem test_decode_set_step_mode_reserved : decodeWord 0b11001#64 = .setStepMode .reserved := by decide
/-- R72, TURN_STEPS 10, 1000, CW. -/
theorem test_decode_turn_steps : decodeWord 0x0000000A03E80002#64 = .turnSteps 10 1000 .cw := by decide
/-- V-TS5: TURN_STEPS 4294967295, 65535, CCW. -/
theorem test_decode_turn_steps_largest : decodeWord 0xFFFFFFFFFFFF0022#64 = .turnSteps 4294967295 65535 .ccw := by decide
/-- V-ENC5. -/
theorem test_decode_turn_infinite : decodeWord 0x0000000007D00023#64 = .turnInfinite 2000 .ccw := by decide
/-- V-ENC7: rsv = 0x1FF is ignored. -/
theorem test_decode_stop_torque : decodeWord 0x000000000000FF84#64 = .stop .torque := by decide
/-- V-ENC6: fr = 1, op = 100. -/
theorem test_decode_stop_free : decodeWord 0b1000100#64 = .stop .free := by decide
/-- V-ENC8: dir = 1, op = 101. -/
theorem test_decode_continue_movement : decodeWord 0b100101#64 = .continueMovement .ccw := by decide
/-- V-ENC9. -/
theorem test_decode_reserved : decodeWord 0b110#64 = .reserved6 ∧ decodeWord 0b111#64 = .reserved7 := by decide
/-- R68: the tick is the `tick` input; with a command in the same cycle it comes second (R143). -/
theorem test_decode_cycle : decodeCycle .tickOnly = [.tick] ∧
    decodeCycle (.commandAndTick 0x44#64) = [.stop .free, .tick] ∧ decodeCycle .reset = [] := by decide
theorem test_decode_table_rows : decodeTableWord 64 2 = some (.turnSteps 0 0 .cw) ∧ decodeTableWord 8 4 = some (.stop .torque) ∧
    decodeTableWord 1 1 = some .tick ∧ decodeTableWord 1 0 = none := by decide
/-- R72, `TURN_STEPS 4, 2, CW` and `STOP FREE`. -/
theorem test_encode : encodeWord (.turnSteps 4 2 .cw) = some 0x0000000400020002#64 ∧
    encodeWord (.stop .free) = some 0x44#64 := by decide
/-- R45: byte 0 is the least significant one. -/
theorem test_bytes_little_endian : decodeBytes [0x23, 0x00, 0xD0, 0x07, 0, 0, 0, 0] = .ok (.turnInfinite 2000 .ccw) := by rfl
theorem test_seven_bytes_rejected : decodeBytes [0x23, 0x00, 0xD0, 0x07, 0, 0, 0] = .error (.notEightBytes 7) := by rfl

/-! ### Commands -/

/-- V-NOP1: the cycle ends with `out_commit = 0`. -/
theorem test_nop_cycle : cycle (.command 0#64) { State.reset with outCommit := true, err := 0b101#3 } =
    .next { State.reset with err := 0b101#3 } := by rfl
/-- V-SSM4: idx 7, HALF, then WAVE. -/
theorem test_set_wave : exec (.setStepMode .wave) { State.reset with currentIndex := some 7 } =
    .next { State.reset with currentIndex := some 6, stepMode := .wave } := by rfl
/-- V-SSM8: the reserved mode. -/
theorem test_set_reserved : exec (.setStepMode .reserved) { State.reset with currentIndex := some 3 } =
    .next { State.reset with currentIndex := some 3, err := 0b001#3 } := by rfl
/-- V-TS1. -/
theorem test_turn_steps : exec (.turnSteps 4 2 .cw) State.reset =
    .next { State.reset with stopMode := .turning, totalSteps := 4, remainingSteps := 4, speed := 2 } := by rfl
/-- V-TS2: speed 0 is clamped and flagged. -/
theorem test_turn_steps_speed_zero : exec (.turnSteps 3 0 .cw) State.reset =
    .next { State.reset with stopMode := .turning, totalSteps := 3, remainingSteps := 3, speed := 1, err := 0b010#3 } := by
  rfl
/-- V-TI1. -/
theorem test_turn_infinite :
    exec (.turnInfinite 2000 .ccw) { State.reset with totalSteps := 10, remainingSteps := 6 } =
    .next { State.reset with stopMode := .turning, totalSteps := 10, remainingSteps := 6, isInfinite := true, speed := 2000,
                             direction := .ccw } := by rfl
/-- V-TI2. -/
theorem test_turn_infinite_speed_zero : exec (.turnInfinite 0 .cw) State.reset =
    .next { State.reset with stopMode := .turning, isInfinite := true, speed := 1, err := 0b010#3 } := by rfl
/-- V-STOP1. -/
theorem test_stop_torque :
    exec (.stop .torque) { State.reset with stopMode := .turning, currentIndex := some 3, remainingSteps := 6 } =
    .next { State.reset with stopMode := .torque, currentIndex := some 3, remainingSteps := 6 } := by rfl
/-- V-STOP3: the lines keep the last pattern. -/
theorem test_stop_free : exec (.stop .free) { State.reset with stopMode := .turning, phaseOut := 0b0110#4 } =
    .next { State.reset with stopMode := .free, phaseOut := 0b0110#4 } := by rfl
/-- V-CONT4: 4 - 6 modulo 2^32. -/
theorem test_continue_second_reversal :
    exec (.continueMovement .cw)
      { State.reset with stopMode := .torque, direction := .ccw, totalSteps := 4, remainingSteps := 6 } =
    .next { State.reset with stopMode := .turning, totalSteps := 0xFFFFFFFE#32, remainingSteps := 6 } := by rfl
/-- V-CONT1: the guard. -/
theorem test_continue_while_turning : exec (.continueMovement .ccw) { State.reset with stopMode := .turning } =
    .next { State.reset with stopMode := .turning } := by rfl
theorem test_reserved6 : exec .reserved6 State.reset = .next { State.reset with err := 0b001#3 } := by rfl
theorem test_reserved7 : exec .reserved7 { State.reset with err := 0b110#3 } =
    .next { State.reset with err := 0b111#3 } := by rfl

/-! ### The tick -/

/-- V-TICK2. -/
theorem test_tick_advances :
    exec .tick { State.reset with speed := 2, elapsedMs := 499, stopMode := .turning, currentIndex := some 0,
                                  remainingSteps := 4 } =
    .next { State.reset with speed := 2, elapsedMs := 0, stopMode := .turning, currentIndex := some 1, remainingSteps := 3,
                             phaseOut := 0b0011#4, outCommit := true } := by rfl
/-- V-TICK5: WAVE, CCW, index 0 goes to 6. -/
theorem test_tick_wraps :
    exec .tick { State.reset with speed := 2000, stopMode := .turning, isInfinite := true, direction := .ccw,
                                  stepMode := .wave, currentIndex := some 0 } =
    .next { State.reset with speed := 2000, stopMode := .turning, isInfinite := true, direction := .ccw, stepMode := .wave,
                             currentIndex := some 6, phaseOut := 0b1000#4, outCommit := true } := by rfl
/-- V-TICK12, and P4's last bits: no index. -/
theorem test_step_uninit :
    step { State.reset with elapsedMs := 999, stopMode := .turning, remainingSteps := 3, inputs := [.tickOnly] } =
    .next { State.reset with elapsedMs := 0, stopMode := .turning, remainingSteps := 3, err := 0b100#3 } := by rfl

/-! ### Cycles, reset and the ports -/

/-- V-CYC1. -/
theorem test_reset_discards_command_and_tick :
    cycle ⟨true, true, 0x7#64, true⟩ { State.reset with currentIndex := some 5, err := 0b111#3, elapsedMs := 999 } =
    .next State.reset := by rfl
/-- V-CYC2: the command first. -/
theorem test_command_before_tick :
    cycle (.commandAndTick 0x1#64) { State.reset with currentIndex := some 0, stopMode := .turning, remainingSteps := 2,
                                                      speed := 2, elapsedMs := 499 } =
    .next { State.reset with currentIndex := some 2, stepMode := .wave, stopMode := .turning, remainingSteps := 1, speed := 2,
                             phaseOut := 0b0010#4, outCommit := true } := by rfl
/-- V-CYC3. -/
theorem test_reserved_and_tick :
    cycle (.commandAndTick 0x7#64) { State.reset with elapsedMs := 999 } =
    .next { State.reset with err := 0b001#3, outCommit := true } := by rfl
/-- The first step after reset runs the word that is put on the ports. -/
theorem test_first_step : step (State.reset.withFetchWord 64 0x0000000000000009) =
    .next { State.reset with currentIndex := some 1, stepMode := .full } := by rfl
/-- R34, with the encodings of R21 to R24, at reset (R160). -/
theorem test_status_at_reset : State.reset.outputs =
    ⟨0b0000#4, 0#1, 8#4, 0b10#2, 0#1, 0b00#2, 0#32, 0#32, 0#1, 1#16, 0#10, 0b000#3, 0#1⟩ := by rfl

/-! ### The assembler (R70, R71) -/

/-- P5's last line, in lower case and with a comment. -/
theorem test_assemble_and_tick : assemble "set_step_mode wave & tick ; idx 2".toList = .ok [.commandAndTick 0x1#64] := by rfl
/-- R72 and R71: a command, a raw word and two ticks, one statement a line. -/
theorem test_assemble_lines : assemble "TURN_STEPS 4, 0x2, CW\n.word64 0x19\n\nWAIT_MS 2".toList =
    .ok [.command 0x0000000400020002#64, .command 0x19#64, .tickOnly, .tickOnly] := by rfl
theorem test_assemble_rejects_large_speed : assemble "TURN_INFINITE 65536, CW".toList = .error (.outOfRange 0) := by rfl
theorem test_assemble_rejects_extra_operand : assemble "NOP\nSTOP FREE, CW".toList = .error (.notAStatement 1) := by rfl

/-! ### Witnesses: states and operands that meet a statement's hypotheses together -/

/-- A state in an active finite turn, on a row of its mode. -/
def turningState : State :=
  { State.reset with stopMode := .turning, currentIndex := some 0, remainingSteps := 4, totalSteps := 4, speed := 2 }

theorem witness_CycleRunsCommandThenTick :
    CycleInput.reset.rst = true ∧ (CycleInput.commandAndTick 0x44#64).rst = false ∧
    (CycleInput.commandAndTick 0x44#64).cmdValid = true ∧ (CycleInput.commandAndTick 0x44#64).tick = true ∧
    CycleInput.quiet.cmdValid = false ∧ CycleInput.quiet.tick = false := ⟨rfl, rfl, rfl, rfl, rfl, rfl⟩
theorem witness_StepRunsPresentedInstruction :
    ({ turningState with inputs := [encode (.stop .free)] } : State).inputs = encode (.stop .free) :: [] ∧
    (Instr.stop .free).isCommand = true ∧
    ({ turningState with inputs := [encode .tick] } : State).inputs = encode .tick :: [] := ⟨rfl, rfl, rfl⟩
theorem witness_ResetCycleSetsEveryRegister :
    CycleInput.rst ⟨true, true, 0x7#64, true⟩ = true ∧
    cycle ⟨true, true, 0x7#64, true⟩ { turningState with err := 0b100#3 } = .next State.reset ∧
    (0b100#3).getLsbD 2 = true ∧ State.reset.err.getLsbD 2 = false := ⟨rfl, rfl, rfl, rfl⟩
theorem witness_IdleCyclesOnlyClearCommit :
    ({ turningState with inputs := [.quiet], outCommit := true } : State).inputs = List.replicate 1 CycleInput.quiet ++ [] ∧
    0 < 1 := ⟨rfl, by decide⟩
/-- One word for each clause, at the largest or the last value of its operands. -/
theorem witness_DecodeReadsOpcodeAndFields :
    (0xFFFFFFFFFFFFFFF8#64).toNat % 8 = 0 ∧ (0x19#64).toNat % 8 = 1 ∧ (0xFFFFFFFFFFFF0022#64).toNat % 8 = 2 ∧
    (0xFFFF0023#64).toNat % 8 = 3 ∧ (0x44#64).toNat % 8 = 4 ∧ (0x25#64).toNat % 8 = 5 ∧ (0x6#64).toNat % 8 = 6 ∧
    (0x7#64).toNat % 8 = 7 := by decide
/-- V-ENC7's word and STOP TORQUE differ in bits that STOP does not use. -/
theorem witness_DecodeIgnoresUnusedBits :
    (0xFF84#64).toNat % 8 = 4 ∧ 0xFF84#64 &&& 0x47#64 = 0x4#64 &&& 0x47#64 ∧ (0xFF84#64 : Word) ≠ 0x4#64 := by decide
theorem witness_DecodeEncodeRoundTrip : encodeWord (.turnSteps 4294967295 65535 .ccw) = some 0xFFFFFFFFFFFF0022#64 := by decide
theorem witness_SpelledCommandsDecodeBack :
    (CmdStmt.turnSteps (2 ^ 32 - 1) 65535 .cw).wellFormed = true ∧ (CmdStmt.turnInfinite 65535 .cw).wellFormed = true := by
  decide
theorem witness_NopChangesNothing : (0xFFFFFFFFFFFFFFF8#64).toNat % 8 = 0 := by decide
theorem witness_ModeSwitchMovesAtMostOne :
    turningState.currentIndex = some 0 ∧ turningState.parityOk = true ∧ turningState.stepMode = .half := ⟨rfl, rfl, rfl⟩
theorem witness_ReservedModeOnlyFlags :
    (0x19#64).toNat % 8 = 1 ∧ (0x19#64).toNat / 2 ^ 3 % 4 = 3 ∧ (0x4#64).toNat % 8 ≠ 1 := by decide
theorem witness_ReservedOpcodesOnlyFlag : 6 ≤ (0x6#64).toNat % 8 ∧ 6 ≤ (0x7#64).toNat % 8 := by decide
theorem witness_SpeedOperandIsClamped :
    (∃ n d, Instr.turnSteps 3 0 .cw = .turnSteps n 0#16 d) ∧ (∃ d, Instr.turnInfinite 1001 .ccw = .turnInfinite 1001#16 d) ∧
    1000 < (1001#16).toNat := ⟨⟨_, _, rfl⟩, ⟨_, rfl⟩, by decide⟩
theorem witness_StopIsIdempotentAndResumable :
    turningState.stopMode = .turning ∧ exec (.stop .torque) turningState = .next { turningState with stopMode := .torque } :=
  ⟨rfl, rfl⟩
/-- A state for each of the three cases, the last with the subtraction below zero (V-CONT4). -/
theorem witness_ContinueMovementResumes :
    turningState.stopMode = .turning ∧ State.reset.stopMode ≠ .turning ∧ Direction.cw = State.reset.direction ∧
    Direction.ccw ≠ State.reset.direction ∧ ((0xFFFFFFFE#32).toNat : Int) = (((4#32).toNat : Int) - (6#32).toNat) % 2 ^ 32 := by
  decide
theorem witness_StopModeTransitions : exec (.stop .torque) turningState = .next { turningState with stopMode := .torque } := rfl
theorem witness_CommandsLeaveOutputsAlone :
    (Instr.stop .free).isCommand = true ∧ exec (.stop .free) turningState = .next { turningState with stopMode := .free } ∧
    turningState.speed ≠ 0#16 ∧ turningState.elapsedMs.toNat + 1 < interval turningState.speed ∧
    interval turningState.speed ≤ ({ turningState with elapsedMs := 499 } : State).elapsedMs.toNat + 1 :=
  ⟨rfl, rfl, by decide, by decide, by decide⟩
/-- A writer of each register and of each error bit: TURN_STEPS with speed 0 (err[1]), TURN_INFINITE, SET_STEP_MODE, STOP, a
reserved opcode (err[0]), CONTINUE_MOVEMENT in the other direction, and the tick that advances and the one without an index
(err[2]), each on the first tick that is a step decision. -/
theorem witness_RegisterWriters :
    exec (.turnSteps 7 0 .ccw) turningState =
      .next { turningState with direction := .ccw, totalSteps := 7, remainingSteps := 7, speed := 1, err := 0b010#3 } ∧
    exec (.turnInfinite 5 .cw) turningState = .next { turningState with isInfinite := true, speed := 5 } ∧
    exec (.setStepMode .full) turningState = .next { turningState with stepMode := .full, currentIndex := some 1 } ∧
    exec (.stop .free) turningState = .next { turningState with stopMode := .free } ∧
    exec .reserved6 turningState = .next { turningState with err := 0b001#3 } ∧
    exec (.continueMovement .ccw) { turningState with stopMode := .torque } =
      .next { turningState with direction := .ccw, totalSteps := 0 } ∧
    exec .tick { turningState with elapsedMs := 499 } =
      .next { turningState with currentIndex := some 1, remainingSteps := 3, phaseOut := 0b0011#4, outCommit := true } ∧
    exec .tick { turningState with elapsedMs := 499, currentIndex := none } =
      .next { turningState with currentIndex := none, err := 0b100#3 } := ⟨rfl, rfl, rfl, rfl, rfl, rfl, rfl, rfl⟩
theorem witness_InfiniteFlagWriters :
    exec (.turnInfinite 5 .cw) turningState = .next { turningState with isInfinite := true, speed := 5 } := rfl
theorem witness_TickBelowIntervalCounts :
    let s := { turningState with elapsedMs := 498 }
    s.speed ≠ 0#16 ∧ s.elapsedMs.toNat + 1 < 1000 / s.speed.toNat := by decide
theorem witness_FreeDecisionCommitsOff :
    let s := { State.reset with elapsedMs := 999 }
    s.speed ≠ 0#16 ∧ 1000 / s.speed.toNat ≤ s.elapsedMs.toNat + 1 ∧ s.stopMode = .free ∧ s.currentIndex = none := by decide
theorem witness_TorqueDecisionCommitsRow :
    let s := { turningState with elapsedMs := 499, stopMode := .torque }
    s.speed ≠ 0#16 ∧ 1000 / s.speed.toNat ≤ s.elapsedMs.toNat + 1 ∧ s.stopMode = .torque ∧ s.currentIndex = some 0 := by decide
/-- V-TICK5: CCW from row 0 in WAVE reaches row 6. -/
theorem witness_ActiveDecisionAdvances :
    let s := { turningState with elapsedMs := 499, direction := .ccw, stepMode := .wave }
    s.speed ≠ 0#16 ∧ 1000 / s.speed.toNat ≤ s.elapsedMs.toNat + 1 ∧ s.stopMode = .turning ∧
    (s.isInfinite = true ∨ s.remainingSteps ≠ 0#32) ∧ s.currentIndex = some 0 ∧
    (((6 : Fin 8).val : Int) = (((0 : Fin 8).val : Int) + (if s.direction = .cw then 1 else -1) *
      (if s.stepMode = .half then 1 else 2)) % 8) := by decide
theorem witness_CompletedDecisionDoesNothing :
    let s := { turningState with elapsedMs := 499, remainingSteps := 0 }
    s.speed ≠ 0#16 ∧ 1000 / s.speed.toNat ≤ s.elapsedMs.toNat + 1 ∧ s.stopMode = .turning ∧ s.isInfinite = false ∧
    s.remainingSteps = 0#32 := by decide
theorem witness_UninitDecisionFlags :
    let s := { State.reset with elapsedMs := 999, stopMode := .turning, isInfinite := true }
    s.speed ≠ 0#16 ∧ 1000 / s.speed.toNat ≤ s.elapsedMs.toNat + 1 ∧ (s.stopMode = .torque ∨ s.stopMode = .turning ∧
      (s.isInfinite = true ∨ s.remainingSteps ≠ 0#32)) ∧ s.currentIndex = none := by decide
theorem witness_IntervalIsFloorOfThousandth :
    1#16 ≠ 0#16 ∧ 334 ≤ (334#16).toNat ∧ (500#16).toNat ≤ 500 ∧ 501 ≤ (501#16).toNat ∧ (1000#16).toNat ≤ 1000 ∧
    1001 ≤ (1001#16).toNat := by decide
theorem witness_StatusPortShowsEveryRegister :
    turningState.currentIndex = some 0 ∧ State.reset.currentIndex = none ∧ turningState.outputs = turningState.outputs :=
  ⟨rfl, rfl, rfl⟩
theorem witness_StepKeepsRegisterBounds :
    turningState.Inv ∧ step turningState = .next turningState := ⟨⟨by decide, by decide, rfl⟩, rfl⟩
theorem witness_OutputHoldsBetweenCommits :
    CycleInput.quiet.rst = false ∧ cycle .quiet turningState = .next turningState ∧ turningState.outCommit = false ∧
    CycleInput.quiet.tick = false := ⟨rfl, rfl, rfl, rfl⟩
theorem witness_CommittedPatternMatchesIndex :
    ∃ t, step { turningState with elapsedMs := 499, inputs := [.tickOnly] } = .next t ∧ t.outCommit = true := ⟨_, rfl, rfl⟩
theorem witness_ErrorBitsAreSticky :
    exec .reserved7 { turningState with err := 0b100#3 } = .next { turningState with err := 0b101#3 } ∧
    (0b100#3).getLsbD 2 = true ∧ CycleInput.tickOnly.rst = false ∧ CycleInput.reset.rst = true ∧
    cycle .reset { turningState with err := 0b100#3 } = .next State.reset := ⟨rfl, rfl, rfl, rfl, rfl⟩
theorem witness_ErrorsOfOneCycleAreOred :
    let s := { State.reset with elapsedMs := 999, stopMode := .torque }
    s.speed ≠ 0#16 ∧ 1000 / s.speed.toNat ≤ s.elapsedMs.toNat + 1 ∧ s.stopMode = .torque ∧ s.currentIndex = none ∧
    6 ≤ (0x7#64).toNat % 8 := by decide
theorem witness_RomIsNeverWritten : ∃ t, run 1 { turningState with inputs := [.reset] } = .next t := ⟨_, rfl⟩
theorem witness_TotalStepsFeedsNothingElse : ∃ t, run 1 { turningState with inputs := [.command 0x25#64] } = .next t := ⟨_, rfl⟩
theorem witness_ModeOnceSetNeverUninit :
    (∀ c ∈ ({ turningState with inputs := [.tickOnly] } : State).inputs, c.rst = false) ∧
    turningState.currentIndex ≠ none ∧ turningState.faulted = false := by decide
theorem witness_StepDecisionSpacing :
    let s := { turningState with elapsedMs := 499, inputs := [.tickOnly, .tickOnly] }
    s.speed ≠ 0#16 ∧ s.inputs = List.replicate 2 CycleInput.tickOnly ++ [] := by decide
/-- V-TS1's command from row 0 at `elapsed_ms = 499`, then one tick: one advance. -/
theorem witness_FiniteTurnMakesExactlyItsSteps :
    let s := { State.reset with currentIndex := some 0, elapsedMs := 499, inputs := [.command 0x0000000400020002#64, .tickOnly] }
    (2#16 = if 2#16 = 0#16 then 1#16 else 2#16) ∧ 1 = min (4#32).toNat (decisionsIn 2#16 s.elapsedMs.toNat 1) ∧
    s.inputs = encode (.turnSteps 4 2 .cw) :: (List.replicate 1 CycleInput.tickOnly ++ []) ∧ s.currentIndex = some 0 := by
  decide
theorem witness_CompletedTurnStaysPut :
    let s := { turningState with remainingSteps := 0, inputs := [.tickOnly] }
    s.stDone = true ∧ s.inputs = List.replicate (0 + 1) CycleInput.tickOnly ++ [] := by decide
theorem witness_StopFreeReleasesAtNextDecision :
    let s := { turningState with elapsedMs := 499, inputs := [encode (.stop .free), .tickOnly] }
    s.speed ≠ 0#16 ∧ s.inputs = encode (.stop .free) :: (List.replicate 1 CycleInput.tickOnly ++ []) ∧
    firstDecision s.speed s.elapsedMs.toNat ≤ 1 ∧ 0 < firstDecision s.speed s.elapsedMs.toNat := by decide

end Sys2Proof.Tests
end

section
/-! PROOFS. What a step does with the instruction its ports carry (00_scope.md R11; 60_exceptions.md R143): the word of a
command decodes back to the command, no instruction stops the machine, and the step is `exec` with `out_commit` cleared. -/

namespace Sys2Proof

/-- The decoder reads back the command that a word was made from (30_encoding.md R62, R63). -/
theorem decodeWord_of_encodeWord {i : Instr} {w : Word} (h : encodeWord i = some w) : decodeWord w = i := by
  cases i with
  | tick => exact nomatch h
  | _ => cases h; simp [decodeWord]

/-- Every command has a word; only a tick has none (30_encoding.md R68). -/
theorem exists_encodeWord_of_isCommand {i : Instr} (hc : i.isCommand = true) : ∃ w, encodeWord i = some w := by
  cases i with
  | tick => exact nomatch hc
  | _ => exact ⟨_, rfl⟩

theorem encode_of_encodeWord {i : Instr} {w : Word} (h : encodeWord i = some w) : encode i = .command w := by
  unfold encode; rw [h]

namespace Machine

/-- No instruction stops the machine (60_exceptions.md R140). -/
theorem exists_exec_eq_next (i : Instr) (s : State) : ∃ t, exec i s = .next t := by
  cases i with
  | setStepMode m => obtain ⟨-, h⟩ | ⟨_, -, h⟩ := execSetStepMode_cases m s <;> exact ⟨_, h⟩
  | continueMovement d => obtain ⟨-, h⟩ | ⟨-, h⟩ := execContinueMovement_cases d s <;> exact ⟨_, h⟩
  | tick => obtain ⟨-, h⟩ | ⟨-, h⟩ := execTick_cases s <;> exact ⟨_, h⟩
  | _ => exact ⟨_, rfl⟩

/-- A cycle that carries a command `i`: the meaning of `i`, and then `out_commit` falls (60_exceptions.md R143). -/
theorem cycle_encode_command {i : Instr} {s t : State} (hc : i.isCommand = true) (h : exec i s = .next t) :
    cycle (encode i) s = .next (clearCommit t) := by
  obtain ⟨w, hw⟩ := exists_encodeWord_of_isCommand hc
  rw [encode_of_encodeWord hw, cycle_command, decodeWord_of_encodeWord hw, h, andThen_next]

/-- A cycle that carries a tick: the meaning of the tick, on the state with `out_commit` at 0 (60_exceptions.md R143). -/
theorem cycle_encode_tick (s : State) : cycle (encode .tick) s = exec .tick { s with outCommit := false } :=
  cycle_tickOnly s

/-- Settles O2: the step is the cycle at the list's head, and that cycle is read off from whether the head is a word. -/
theorem stepRunsPresentedInstruction : Obligations.StepRunsPresentedInstruction := by
  refine ⟨fun c rest s hin => step_cons hin, fun i rest s hin => ⟨fun hc => ?_, fun hi => ?_⟩⟩
  · obtain ⟨t, ht⟩ := exists_exec_eq_next i { s with inputs := rest }
    exact ⟨t, ht, (step_cons hin).trans (cycle_encode_command hc ht)⟩
  · subst hi
    exact (step_cons hin).trans (cycle_encode_tick _)

end Machine
end Sys2Proof
end

section
/-! PROOFS. The bounds on the registers that every step keeps (10_state.md R28, R35, R37): a stored speed is at least 1,
`elapsed_ms` is at most 999 between ticks, and the index stands on a row of the mode's parity. -/

namespace Sys2Proof.Machine

/-! ### The row parity (10_state.md R37) -/

theorem parityOk_of_none {s : State} (hi : s.currentIndex = none) : s.parityOk = decide (s.stepMode = .half) := by
  unfold State.parityOk; rw [hi]

theorem parityOk_iff_of_some {s : State} {i : Fin 8} (hi : s.currentIndex = some i) :
    s.parityOk = true ↔ (s.stepMode = .wave → i.val % 2 = 0) ∧ (s.stepMode = .full → i.val % 2 = 1) := by
  unfold State.parityOk
  rw [hi]
  cases s.stepMode <;> simp

/-- The index that a mode switch leaves is a row of the new mode (41_configuration.md R91, R92). -/
theorem repairIndex_parity (m : StepMode) (idx : Index) :
    (m = .wave → (repairIndex m idx).val % 2 = 0) ∧ (m = .full → (repairIndex m idx).val % 2 = 1) := by
  cases idx with
  | none => cases m <;> decide
  | some i => revert i; cases m <;> decide

/-- An advance in WAVE or FULL moves the index by 2 and so keeps its parity (43_tick.md R127, R128). -/
theorem indexAdd_delta_parity (i : Fin 8) (d : Direction) {m : StepMode} (hm : m ≠ .half) :
    (indexAdd i (delta d m)).val % 2 = i.val % 2 := by
  have hadd := indexAdd_val i (delta d m)
  obtain ⟨h, -⟩ | ⟨-, h | h⟩ := delta_cases d m
  · exact absurd h hm
  all_goals omega

/-! ### What keeps the invariant -/

/-- An update that writes neither `elapsed_ms`, the index nor the mode, and leaves a speed of at least 1. -/
theorem State.Inv.of_speed {s t : State} (h : s.Inv) (hv : t.speed ≠ 0#16) (he : t.elapsedMs = s.elapsedMs)
    (hi : t.currentIndex = s.currentIndex) (hm : t.stepMode = s.stepMode) : t.Inv := by
  obtain ⟨-, helapsed, hparity⟩ := h
  exact ⟨hv, he ▸ helapsed, by unfold State.parityOk at *; rw [hi, hm]; exact hparity⟩

/-- An update that writes none of the four registers the invariant speaks of. -/
theorem State.Inv.of_eq {s t : State} (h : s.Inv) (hv : t.speed = s.speed) (he : t.elapsedMs = s.elapsedMs)
    (hi : t.currentIndex = s.currentIndex) (hm : t.stepMode = s.stepMode) : t.Inv :=
  h.of_speed (hv ▸ h.1) he hi hm

theorem State.Inv.clearCommit {s : State} (h : s.Inv) : (clearCommit s).Inv := h.of_eq rfl rfl rfl rfl

theorem State.Inv.setElapsed {s : State} (h : s.Inv) {e : Nat} (he : e < 1000) : (setElapsed e s).Inv := by
  obtain ⟨hspeed, -, hparity⟩ := h
  have hle : (BitVec.ofNat 10 e).toNat ≤ ticksPerSecond - 1 := by
    rw [BitVec.toNat_ofNat]; unfold ticksPerSecond; omega
  exact ⟨hspeed, hle, hparity⟩

theorem resetRegisters_inv (s : State) : (resetRegisters s).Inv := ⟨by simp, by simp, rfl⟩

theorem stepDecision_inv {s : State} (h : s.Inv) : (stepDecision s).Inv := by
  obtain ⟨-, e⟩ | ⟨i, -, -, e⟩ | ⟨i, -, -, hi, e⟩ | ⟨-, -, e⟩ | ⟨-, -, e⟩ := stepDecision_cases s <;> rw [e]
  case inr.inr.inl =>
    obtain ⟨hspeed, helapsed, hparity⟩ := h
    rw [parityOk_iff_of_some hi] at hparity
    refine ⟨hspeed, helapsed, (parityOk_iff_of_some rfl).2 ⟨fun hm => ?_, fun hm => ?_⟩⟩ <;>
      change s.stepMode = _ at hm <;> rw [indexAdd_delta_parity i s.direction (by simp [hm])]
    · exact hparity.1 hm
    · exact hparity.2 hm
  case inr.inr.inr.inl => exact h
  all_goals exact h.of_eq rfl rfl rfl rfl

/-- A tick that counts stays below an interval of at most 1000; one that decides has set `elapsed_ms` to 0 (R121). -/
theorem execTick_inv {s t : State} (h : s.Inv) (ht : execTick s = .next t) : t.Inv := by
  obtain ⟨hlt, e⟩ | ⟨-, e⟩ := execTick_cases s <;> rw [e] at ht <;> cases ht
  · have hle := interval_le h.1
    exact h.clearCommit.setElapsed (by omega)
  · exact stepDecision_inv (h.clearCommit.setElapsed (by decide))

theorem execSetStepMode_inv {m : ModeOperand} {s t : State} (h : s.Inv) (ht : execSetStepMode m s = .next t) : t.Inv := by
  obtain ⟨-, e⟩ | ⟨sm, -, e⟩ := execSetStepMode_cases m s <;> rw [e] at ht <;> cases ht
  · exact h.of_eq rfl rfl rfl rfl
  · obtain ⟨hspeed, helapsed, -⟩ := h
    exact ⟨hspeed, helapsed, (parityOk_iff_of_some rfl).2 (repairIndex_parity sm s.currentIndex)⟩

theorem execContinueMovement_inv {d : Direction} {s t : State} (h : s.Inv) (ht : execContinueMovement d s = .next t) :
    t.Inv := by
  obtain ⟨-, e⟩ | ⟨-, e⟩ := execContinueMovement_cases d s <;> rw [e] at ht <;> cases ht
  · exact h
  · exact h.of_eq (by simp) (by simp) (by simp) (by simp)

theorem exec_inv {i : Instr} {s t : State} (h : s.Inv) (ht : exec i s = .next t) : t.Inv := by
  cases i with
  | tick => exact execTick_inv h ht
  | setStepMode m => exact execSetStepMode_inv h ht
  | continueMovement d => exact execContinueMovement_inv h ht
  | turnSteps n v d => cases ht; exact h.of_speed (clampSpeed_ne_zero v) (by simp) (by simp) (by simp)
  | turnInfinite v d => cases ht; exact h.of_speed (clampSpeed_ne_zero v) (by simp) (by simp) (by simp)
  | nop | stop _ | reserved6 | reserved7 => cases ht; exact h.of_eq rfl rfl rfl rfl

theorem cycle_inv {c : CycleInput} {s t : State} (h : s.Inv) (ht : cycle c s = .next t) : t.Inv := by
  obtain ⟨-, rfl⟩ | ⟨-, s1, hcmd, htick⟩ := cycle_cases ht
  · exact resetRegisters_inv s
  · have h1 : s1.Inv := by
      obtain ⟨-, hx⟩ | ⟨-, rfl⟩ := hcmd
      · exact exec_inv h hx
      · exact h
    obtain ⟨-, hx⟩ | ⟨-, rfl⟩ := htick
    · exact execTick_inv h1.clearCommit hx
    · exact h1.clearCommit

/-- Settles O39: a step is a cycle on the state whose port list has lost its head, which the invariant does not see. -/
theorem stepKeepsRegisterBounds : Obligations.StepKeepsRegisterBounds := by
  intro s t h ht
  have hrest : ({ s with inputs := s.inputs.tail } : State).Inv := h.of_eq rfl rfl rfl rfl
  rw [step_eq] at ht
  exact cycle_inv hrest ht

end Sys2Proof.Machine
end

section
/-! PROOFS. `total_steps` feeds no other register (10_state.md R25): what starts from two states that differ in it only ends
in two states that differ in it only. Each part of the machine is shown to be so, from the operations up to the run. -/

namespace Sys2Proof.Machine

/-- The state with another value in `total_steps`. -/
def State.withTotal (n : StepCount) (s : State) : State := { s with totalSteps := n }

/-- `f` reads `total_steps` into no other register: changing it beforehand changes at most it afterwards. -/
def TotalFeedsOnlyItself (f : State → Result) : Prop :=
  ∀ (s t : State) (n : StepCount), f s = .next t → ∃ m, f (s.withTotal n) = .next (t.withTotal m)

/-! ### The operations -/

@[simp] theorem setElapsed_withTotal (e : Nat) (n : StepCount) (s : State) :
    setElapsed e (s.withTotal n) = (setElapsed e s).withTotal n := rfl

@[simp] theorem clearCommit_withTotal (n : StepCount) (s : State) :
    clearCommit (s.withTotal n) = (clearCommit s).withTotal n := rfl

/-- Reset writes 0 over either value (60_exceptions.md R160). -/
theorem resetRegisters_withTotal (n : StepCount) (s : State) :
    resetRegisters (s.withTotal n) = (resetRegisters s).withTotal 0#32 := rfl

@[simp] theorem flagSpeed_withTotal (v : Speed) (n : StepCount) (s : State) :
    flagSpeed v (s.withTotal n) = (flagSpeed v s).withTotal n := by
  unfold flagSpeed; split <;> rfl

/-- A reversal writes `total_steps - remaining_steps` to `total_steps` and to nothing else (42_movement.md R104). -/
theorem foldReversal_withTotal (d : Direction) (n : StepCount) (s : State) :
    ∃ m, foldReversal d (s.withTotal n) = (foldReversal d s).withTotal m := by
  unfold foldReversal
  by_cases hd : d = s.direction
  · exact ⟨n, by rw [if_pos hd]; exact if_pos hd⟩
  · exact ⟨n - s.remainingSteps, by rw [if_neg hd]; exact if_neg hd⟩

theorem holdTorque_withTotal (n : StepCount) (s : State) : holdTorque (s.withTotal n) = (holdTorque s).withTotal n := by
  obtain ⟨_ | _⟩ := s <;> rfl

theorem advance_withTotal (n : StepCount) (s : State) : advance (s.withTotal n) = (advance s).withTotal n := by
  obtain ⟨_ | _⟩ := s <;> rfl

@[simp] theorem stepDecision_withTotal (n : StepCount) (s : State) :
    stepDecision (s.withTotal n) = (stepDecision s).withTotal n := by
  have hstop : (s.withTotal n).stopMode = s.stopMode := rfl
  have hactive : (s.withTotal n).active = s.active := rfl
  unfold stepDecision
  rw [hstop, hactive, holdTorque_withTotal, advance_withTotal]
  cases s.stopMode <;> cases s.active <;> rfl

/-! ### The instructions -/

theorem totalFeedsOnlyItself_next : TotalFeedsOnlyItself .next := by
  intro s t n h
  cases h
  exact ⟨n, rfl⟩

theorem execSetStepMode_totalFeedsOnlyItself (m : ModeOperand) : TotalFeedsOnlyItself (execSetStepMode m) := by
  intro s t n h
  refine ⟨n, ?_⟩
  cases m <;> cases h <;> rfl

theorem execContinueMovement_totalFeedsOnlyItself (d : Direction) : TotalFeedsOnlyItself (execContinueMovement d) := by
  intro s t n h
  obtain ⟨hs, e⟩ | ⟨hs, e⟩ := execContinueMovement_cases d s <;> rw [e] at h <;> cases h
  · exact ⟨n, if_pos hs⟩
  · obtain ⟨m, hm⟩ := foldReversal_withTotal d n s
    exact ⟨m, (if_neg hs).trans (by rw [hm]; rfl)⟩

theorem execTick_totalFeedsOnlyItself : TotalFeedsOnlyItself execTick := by
  intro s t n h
  refine ⟨n, ?_⟩
  obtain ⟨hlt, e⟩ | ⟨hge, e⟩ := execTick_cases s <;> rw [e] at h <;> cases h
  · exact if_pos hlt
  · rw [← stepDecision_withTotal]
    exact if_neg (Nat.not_lt.2 hge)

theorem exec_totalFeedsOnlyItself (i : Instr) : TotalFeedsOnlyItself (exec i) := by
  cases i with
  | tick => exact execTick_totalFeedsOnlyItself
  | setStepMode m => exact execSetStepMode_totalFeedsOnlyItself m
  | continueMovement d => exact execContinueMovement_totalFeedsOnlyItself d
  | turnSteps k v d => intro s t n h; cases h; exact ⟨k, by rw [exec_turnSteps, execTurnSteps, flagSpeed_withTotal]; rfl⟩
  | turnInfinite v d => intro s t n h; cases h; exact ⟨n, by rw [exec_turnInfinite, execTurnInfinite, flagSpeed_withTotal]; rfl⟩
  | nop | stop _ | reserved6 | reserved7 => intro s t n h; cases h; exact ⟨n, rfl⟩

/-! ### The cycle, the step and the run -/

/-- An outcome that went on to a next state had one to go on from. -/
theorem andThen_eq_next {r : Result} {f : State → Result} {t : State} (h : andThen r f = .next t) :
    ∃ s, r = .next s ∧ f s = .next t := by
  cases r with
  | next s => exact ⟨s, rfl, h⟩
  | fault e => exact nomatch h
  | refused e => exact nomatch h

theorem TotalFeedsOnlyItself.andThen {f g : State → Result} (hf : TotalFeedsOnlyItself f) (hg : TotalFeedsOnlyItself g) :
    TotalFeedsOnlyItself fun s => andThen (f s) g := by
  intro s t n h
  obtain ⟨u, hu, ht⟩ := andThen_eq_next h
  obtain ⟨k, hk⟩ := hf s u n hu
  obtain ⟨m, hm⟩ := hg u t k ht
  exact ⟨m, by simp only [hk, andThen_next, hm]⟩

theorem commandPhase_totalFeedsOnlyItself (c : CycleInput) : TotalFeedsOnlyItself (commandPhase c) := by
  intro s t n h
  unfold commandPhase at *
  split at h
  · next hc => rw [if_pos hc]; exact exec_totalFeedsOnlyItself _ s t n h
  · next hc => rw [if_neg hc]; exact totalFeedsOnlyItself_next s t n h

theorem tickPhase_totalFeedsOnlyItself (c : CycleInput) : TotalFeedsOnlyItself (tickPhase c) := by
  intro s t n h
  unfold tickPhase at *
  rw [clearCommit_withTotal]
  split at h
  · next hc => rw [if_pos hc]; exact exec_totalFeedsOnlyItself _ _ t n h
  · next hc => rw [if_neg hc]; exact totalFeedsOnlyItself_next _ t n h

theorem cycle_totalFeedsOnlyItself (c : CycleInput) : TotalFeedsOnlyItself (cycle c) := by
  intro s t n h
  cases hr : c.rst with
  | true =>
    rw [cycle_of_rst hr] at *
    cases h
    exact ⟨0#32, by rw [resetRegisters_withTotal]⟩
  | false =>
    rw [cycle_of_not_rst hr] at *
    exact (commandPhase_totalFeedsOnlyItself c).andThen (tickPhase_totalFeedsOnlyItself c) s t n h

theorem step_totalFeedsOnlyItself : TotalFeedsOnlyItself step := by
  intro s t n h
  rw [step_eq] at *
  exact cycle_totalFeedsOnlyItself _ _ t n h

theorem run_totalFeedsOnlyItself (k : Nat) : TotalFeedsOnlyItself (run k) := by
  induction k with
  | zero => exact totalFeedsOnlyItself_next
  | succ k ih => exact step_totalFeedsOnlyItself.andThen ih

/-- Settles O46: the run is a chain of steps, each of which keeps a difference in `total_steps` where it is. -/
theorem totalStepsFeedsNothingElse : Obligations.TotalStepsFeedsNothingElse := run_totalFeedsOnlyItself

end Sys2Proof.Machine
end

section
/-! PROOFS. Which instruction writes which register or error bit, and when (10_state.md R21 to R28, R32). -/

namespace Sys2Proof.Machine

/-! ### The error bits (10_state.md R32, R141): which bit each error is -/

@[simp] theorem errorMask_cmd : errorMask .cmd = 0b001#3 := rfl
@[simp] theorem errorMask_speed : errorMask .speed = 0b010#3 := rfl
@[simp] theorem errorMask_uninit : errorMask .uninit = 0b100#3 := rfl

theorem errorMask_uninit_getLsbD (k : Nat) : (errorMask .uninit).getLsbD k = decide (k = 2) := by
  rw [show errorMask .uninit = BitVec.twoPow 3 2 from rfl, BitVec.getLsbD_twoPow]
  simp [eq_comm]

/-! ### What a tick writes (43_tick.md R121 to R126) -/

/-- What no tick writes. -/
theorem execTick_keeps {s t : State} (h : execTick s = .next t) :
    t.stepMode = s.stepMode ∧ t.direction = s.direction ∧ t.stopMode = s.stopMode ∧ t.totalSteps = s.totalSteps ∧
    t.isInfinite = s.isInfinite ∧ t.speed = s.speed := by
  obtain ⟨-, e⟩ | ⟨-, e⟩ := execTick_cases s <;> rw [e] at h <;> cases h
  · simp
  · obtain ⟨hmode, hdir, hstop, htotal, hinf, hspeed, -⟩ := stepDecision_keeps (setElapsed 0 (clearCommit s))
    exact ⟨hmode, hdir, hstop, htotal, hinf, hspeed⟩

/-- The three things a tick can do to the index, the count and `err`: nothing, an advance of an active turn, or UNINIT. -/
theorem execTick_writes {s t : State} (h : execTick s = .next t) :
    (t.currentIndex = s.currentIndex ∧ t.remainingSteps = s.remainingSteps ∧ t.err = s.err) ∨
    (interval s.speed ≤ s.elapsedMs.toNat + 1 ∧ s.stopMode = .turning ∧ s.active = true ∧
      t.remainingSteps = countStep s.isInfinite s.remainingSteps ∧ t.err = s.err) ∨
    (interval s.speed ≤ s.elapsedMs.toNat + 1 ∧ (s.stopMode = .torque ∨ s.stopMode = .turning ∧ s.active = true) ∧
      s.currentIndex = none ∧ t.currentIndex = none ∧ t.remainingSteps = s.remainingSteps ∧
      t.err = s.err ||| errorMask .uninit) := by
  obtain ⟨-, e⟩ | ⟨hge, e⟩ := execTick_cases s <;> rw [e] at h <;> cases h
  · simp
  · obtain ⟨-, e⟩ | ⟨i, -, -, e⟩ | ⟨i, hstop, hactive, -, e⟩ | ⟨-, -, e⟩ | ⟨hstop, hi, e⟩ :=
      stepDecision_cases (setElapsed 0 (clearCommit s)) <;> rw [e]
    case inr.inr.inl => exact .inr (.inl ⟨hge, hstop, hactive, rfl, rfl⟩)
    case inr.inr.inr.inr => exact .inr (.inr ⟨hge, hstop, hi, hi, rfl, rfl⟩)
    all_goals simp

/-- R21: a tick moves the index in an advance only. -/
theorem execTick_currentIndex_ne {s t : State} (h : execTick s = .next t) (hne : t.currentIndex ≠ s.currentIndex) :
    interval s.speed ≤ s.elapsedMs.toNat + 1 ∧ s.stopMode = .turning ∧ (s.isInfinite = true ∨ s.remainingSteps ≠ 0#32) := by
  obtain ⟨hi, -⟩ | ⟨hge, hstop, hactive, -⟩ | ⟨-, -, hi, hi', -⟩ := execTick_writes h
  · exact absurd hi hne
  · exact ⟨hge, hstop, (active_iff s).1 hactive⟩
  · exact absurd (hi'.trans hi.symm) hne

/-- R26: a tick counts down in an advance of a finite turn only. -/
theorem execTick_remainingSteps_ne {s t : State} (h : execTick s = .next t) (hne : t.remainingSteps ≠ s.remainingSteps) :
    interval s.speed ≤ s.elapsedMs.toNat + 1 ∧ s.stopMode = .turning ∧ s.isInfinite = false ∧ s.remainingSteps ≠ 0#32 := by
  obtain ⟨-, hr, -⟩ | ⟨hge, hstop, hactive, hr, -⟩ | ⟨-, -, -, -, hr, -⟩ := execTick_writes h
  · exact absurd hr hne
  · have hfinite : s.isInfinite = false := by
      by_contra hinf
      rw [Bool.not_eq_false] at hinf
      rw [hr, hinf, countStep_infinite] at hne
      exact hne rfl
    exact ⟨hge, hstop, hfinite, ((active_iff s).1 hactive).resolve_left (by simp [hfinite])⟩
  · exact absurd hr hne

/-- R32: the error bit that a tick raises is `err[2]`, and it does so where there is no index to step or to hold. -/
theorem execTick_err_ne {s t : State} (h : execTick s = .next t) {k : Nat} (hne : t.err.getLsbD k ≠ s.err.getLsbD k) :
    k = 2 ∧ interval s.speed ≤ s.elapsedMs.toNat + 1 ∧ s.currentIndex = none ∧
    (s.stopMode = .torque ∨ s.stopMode = .turning ∧ (s.isInfinite = true ∨ s.remainingSteps ≠ 0#32)) := by
  obtain ⟨-, -, he⟩ | ⟨-, -, -, -, he⟩ | ⟨hge, hstop, hi, -, -, he⟩ := execTick_writes h
  · exact absurd (by rw [he]) hne
  · exact absurd (by rw [he]) hne
  · rw [active_iff] at hstop
    refine ⟨?_, hge, hi, hstop⟩
    by_contra hk
    rw [he, BitVec.getLsbD_or, errorMask_uninit_getLsbD, decide_eq_false hk, Bool.or_false] at hne
    exact hne rfl

/-! ### The writers -/

/-- Settles O25: instruction by instruction; the tick's part is what `execTick_writes` says a tick can do. -/
theorem registerWriters : Obligations.RegisterWriters := by
  intro i s t h
  cases i with
  | tick =>
    obtain ⟨hmode, hdir, hstop, htotal, hinf, hspeed⟩ := execTick_keeps h
    refine ⟨fun hne => .inr ⟨rfl, execTick_currentIndex_ne h hne⟩, absurd hmode, absurd hdir, absurd hstop,
      absurd htotal, fun hne => .inr ⟨rfl, execTick_remainingSteps_ne h hne⟩, absurd hinf, absurd hspeed, fun hne => ?_,
      fun hne => ?_, fun hne => ⟨rfl, (execTick_err_ne h hne).2⟩⟩
    · exact nomatch (execTick_err_ne h hne).1
    · exact nomatch (execTick_err_ne h hne).1
  | setStepMode m =>
    obtain ⟨hm, e⟩ | ⟨_, -, e⟩ := execSetStepMode_cases m s <;> rw [exec_setStepMode, e] at h <;> cases h
    · simp [hm]
    · simp
  | continueMovement d =>
    obtain ⟨-, e⟩ | ⟨-, e⟩ := execContinueMovement_cases d s <;> rw [exec_continueMovement, e] at h <;> cases h
    · simp
    · simpa using fun hd _ => hd
  | turnSteps n v d => cases h; by_cases hv : v = 0#16 <;> simp [hv]
  | turnInfinite v d => cases h; by_cases hv : v = 0#16 <;> simp [hv]
  | nop | stop _ | reserved6 | reserved7 => cases h; simp

/-- Settles O26: the two TURN commands write the flag as R101 and R102 say, and a tick keeps it. -/
theorem infiniteFlagWriters : Obligations.InfiniteFlagWriters := by
  refine ⟨fun i s t h => ?_, rfl⟩
  cases i with
  | tick =>
    obtain ⟨-, -, -, -, hinf, -⟩ := execTick_keeps h
    exact hinf
  | setStepMode m =>
    obtain ⟨-, e⟩ | ⟨_, -, e⟩ := execSetStepMode_cases m s <;> rw [exec_setStepMode, e] at h <;> cases h <;> rfl
  | continueMovement d =>
    obtain ⟨-, e⟩ | ⟨-, e⟩ := execContinueMovement_cases d s <;> rw [exec_continueMovement, e] at h <;> cases h <;> simp
  | _ => cases h; rfl

end Sys2Proof.Machine
end

section
/-! PROOFS. The output ports (10_state.md R33, R34): each encoding of R20 to R24 names its value, so that the outputs show
the whole of every register. -/

namespace Sys2Proof.Machine

/-! ### Each encoding tells its values apart -/

theorem indexBits_toNat (i : Fin 8) : (indexBits (some i)).toNat = i.val := by
  unfold indexBits
  rw [BitVec.toNat_ofNat]
  omega

/-- Among the rows' codes there is not the sentinel's, 8 (10_state.md R21). -/
theorem indexBits_inj {a b : Index} : indexBits a = indexBits b ↔ a = b := by
  revert a b
  decide

theorem stepModeBits_inj {a b : StepMode} : stepModeBits a = stepModeBits b ↔ a = b := by
  cases a <;> cases b <;> decide

theorem directionBit_inj {a b : Direction} : directionBit a = directionBit b ↔ a = b := by
  cases a <;> cases b <;> decide

theorem stopModeBits_inj {a b : StopMode} : stopModeBits a = stopModeBits b ↔ a = b := by
  cases a <;> cases b <;> decide

theorem ofBool_eq_one_iff (b : Bool) : BitVec.ofBool b = 1#1 ↔ b = true := by cases b <;> decide

/-! ### The outputs -/

/-- The completed sub-state in the registers' own terms (10_state.md R33). -/
theorem stDone_iff (s : State) :
    s.stDone = true ↔ s.stopMode = .turning ∧ s.isInfinite = false ∧ s.remainingSteps = 0#32 := by
  unfold State.stDone
  simp [and_assoc]

/-- Settles O37: the output is the flag, and the flag is the completed sub-state. -/
theorem doneOutputIsCompletedTurn : Obligations.DoneOutputIsCompletedTurn :=
  fun s => (ofBool_eq_one_iff s.stDone).trans (stDone_iff s)

/-- Two states that show the same outputs hold the same registers; what is no register is compared as it stands. -/
theorem State.eq_of_outputs_eq {s t : State} (h : s.outputs = t.outputs) (htable : s.phaseTable = t.phaseTable)
    (hinputs : s.inputs = t.inputs) : s = t := by
  cases s
  cases t
  simp only [State.outputs, Outputs.mk.injEq, indexBits_inj, stepModeBits_inj, directionBit_inj, stopModeBits_inj,
    BitVec.ofBool_eq_iff_eq] at h
  obtain ⟨rfl, rfl, rfl, rfl, rfl, rfl, rfl, rfl, rfl, rfl, rfl, rfl, -⟩ := h
  cases htable
  cases hinputs
  rfl

/-- Settles O38: each output by its encoding, and the registers back from the outputs since no encoding joins two values. -/
theorem statusPortShowsEveryRegister : Obligations.StatusPortShowsEveryRegister := by
  refine ⟨fun s => ⟨fun i hi => ?_, fun hi => ?_, rfl, rfl, rfl, rfl, rfl, ofBool_eq_one_iff _, rfl, rfl, rfl,
    ofBool_eq_one_iff _, rfl, ofBool_eq_one_iff _⟩, fun s t => State.eq_of_outputs_eq⟩
  · change (indexBits s.currentIndex).toNat = i.val
    rw [hi, indexBits_toNat]
  · change indexBits s.currentIndex = 8#4
    rw [hi]
    rfl

end Sys2Proof.Machine
end

section
/-! PROOFS. `remaining_steps <= total_steps` is broken by one CONTINUE_MOVEMENT in the other direction (10_state.md R38). -/

namespace Sys2Proof.Machine

/-- A turn of 4 steps stopped after one, with a CONTINUE_MOVEMENT in the other direction on the ports: R104 folds the 3 steps
that remain out of the total. -/
def stoppedBeforeReversal : State :=
  { State.reset with
    stopMode := .torque, totalSteps := 4#32, remainingSteps := 3#32, inputs := [encode (.continueMovement .ccw)] }

/-- What one step makes of it: 3 steps remain of a total of 1. -/
def turningAfterReversal : State :=
  { State.reset with stopMode := .turning, direction := .ccw, totalSteps := 1#32, remainingSteps := 3#32 }

theorem step_stoppedBeforeReversal : step stoppedBeforeReversal = .next turningAfterReversal := rfl

theorem stoppedBeforeReversal_inv : stoppedBeforeReversal.Inv := ⟨by decide, by decide, rfl⟩

/-- Settles O47: from a state that meets the register bounds with 3 <= 4, a step to one with 3 > 1. -/
theorem remainingMayExceedTotal : Obligations.RemainingMayExceedTotal := fun h =>
  absurd (h _ _ stoppedBeforeReversal_inv (by decide) step_stoppedBeforeReversal) (by decide)

end Sys2Proof.Machine
end

section
/-! PROOFS. The byte transport of a command word (20_memory.md R45): byte `k` is bits [8k+7:8k], and the bytes carry the word. -/

namespace Sys2Proof

theorem wordByte_eq_ofNat (w : Word) (k : Nat) : wordByte w k = BitVec.ofNat 8 (w.toNat / 2 ^ (8 * k)) := by
  rw [wordByte, BitVec.extractLsb', Nat.shiftRight_eq_div_pow]

theorem bytesOfWord_eq_map (w : Word) : bytesOfWord w = (List.range 8).map (wordByte w) := rfl

theorem bytesOfWord_getElem? (w : Word) {k : Nat} (hk : k < 8) : (bytesOfWord w)[k]? = some (wordByte w k) := by
  rw [bytesOfWord_eq_map, List.getElem?_map, List.getElem?_range hk, Option.map_some]

/-- Each byte begins where the one before it ends, so that side by side they are the whole of the word. -/
theorem wordOfBytes_bytesOfWord (w : Word) : wordOfBytes (bytesOfWord w) = .ok w := by
  have happend : wordByte w 7 ++ wordByte w 6 ++ wordByte w 5 ++ wordByte w 4 ++ wordByte w 3 ++ wordByte w 2 ++
      wordByte w 1 ++ wordByte w 0 = w := by
    simp only [wordByte]
    iterate 7 rw [BitVec.extractLsb'_append_extractLsb'_eq_extractLsb' (by rfl)]
    exact BitVec.extractLsb'_eq_self
  exact congrArg Except.ok happend

theorem decodeBytes_of_wordOfBytes {bs : List Byte} {w : Word} (h : wordOfBytes bs = .ok w) :
    decodeBytes bs = .ok (decodeWord w) := by
  unfold decodeBytes; rw [h]

/-- Settles O10: the bytes side by side are the word, and from the word the decoder goes on. -/
theorem byteTransportIsLittleEndian : Obligations.ByteTransportIsLittleEndian := by
  intro w
  have hword := wordOfBytes_bytesOfWord w
  refine ⟨fun k hk => ?_, rfl, hword, decodeBytes_of_wordOfBytes hword⟩
  rw [bytesOfWord_getElem? w hk, wordByte_eq_ofNat]

end Sys2Proof
end

section
/-! PROOFS. The output between commits (20_memory.md R50; 10_state.md R30, R31): `phase_out` is written by a commit only, and
a commit is made by a tick only. -/

namespace Sys2Proof.Machine

/-- No command writes `phase_out`: only a tick can (42_movement.md R106). -/
theorem exec_command_phaseOut {i : Instr} {s t : State} (hc : i.isCommand = true) (h : exec i s = .next t) :
    t.phaseOut = s.phaseOut := by
  cases i with
  | tick => exact nomatch hc
  | setStepMode m =>
    obtain ⟨-, e⟩ | ⟨_, -, e⟩ := execSetStepMode_cases m s <;> rw [exec_setStepMode, e] at h <;> cases h <;> rfl
  | continueMovement d =>
    obtain ⟨-, e⟩ | ⟨-, e⟩ := execContinueMovement_cases d s <;> rw [exec_continueMovement, e] at h <;> cases h <;> simp
  | turnSteps n v d | turnInfinite v d => cases h; simp
  | nop | stop _ | reserved6 | reserved7 => cases h; rfl

/-- A step decision leaves `phase_out` as it was unless it commits (43_tick.md R123 to R126). -/
theorem stepDecision_phaseOut_of_not_commit {s : State} (h : (stepDecision s).outCommit = false) :
    (stepDecision s).phaseOut = s.phaseOut := by
  obtain ⟨-, e⟩ | ⟨i, -, -, e⟩ | ⟨i, -, -, -, e⟩ | ⟨-, -, e⟩ | ⟨-, -, e⟩ := stepDecision_cases s <;> rw [e] at h ⊢
  case inr.inr.inr.inr => rfl
  all_goals exact nomatch h

/-- A tick that counts commits nothing; one that decides is its step decision (43_tick.md R121). -/
theorem execTick_phaseOut_of_not_commit {s t : State} (h : execTick s = .next t) (ht : t.outCommit = false) :
    t.phaseOut = s.phaseOut := by
  obtain ⟨-, e⟩ | ⟨-, e⟩ := execTick_cases s <;> rw [e] at h <;> cases h
  · rfl
  · exact stepDecision_phaseOut_of_not_commit ht

/-- Settles O41: the command phase keeps `phase_out`, the tick phase keeps it or commits, and without a tick the cycle ends
with its clearing of `out_commit`. -/
theorem outputHoldsBetweenCommits : Obligations.OutputHoldsBetweenCommits := by
  intro c s t hrst h
  obtain ⟨hr, -⟩ | ⟨-, s1, hcmd, htick⟩ := cycle_cases h
  · exact nomatch hrst.symm.trans hr
  have hkept : s1.phaseOut = s.phaseOut := by
    obtain ⟨-, hx⟩ | ⟨-, rfl⟩ := hcmd
    · exact exec_command_phaseOut (decodeWord_isCommand _) hx
    · rfl
  obtain ⟨hk, hx⟩ | ⟨-, rfl⟩ := htick
  · exact ⟨fun ht => (execTick_phaseOut_of_not_commit hx ht).trans hkept, fun hnk => nomatch hk.symm.trans hnk⟩
  · exact ⟨fun _ => hkept, fun _ => rfl⟩

end Sys2Proof.Machine
end

section
/-! PROOFS. The ROM has no write port (20_memory.md R44, R53): no instruction, no cycle and so no run changes its contents. -/

namespace Sys2Proof.Machine

theorem execTick_phaseTable {s t : State} (h : execTick s = .next t) : t.phaseTable = s.phaseTable := by
  obtain ⟨-, e⟩ | ⟨-, e⟩ := execTick_cases s <;> rw [e] at h <;> cases h
  · rfl
  · obtain ⟨-, -, -, -, -, -, -, htable, -⟩ := stepDecision_keeps (setElapsed 0 (clearCommit s))
    exact htable

theorem cycle_phaseTable {c : CycleInput} {s t : State} (h : cycle c s = .next t) : t.phaseTable = s.phaseTable := by
  obtain ⟨-, rfl⟩ | ⟨-, s1, hcmd, htick⟩ := cycle_cases h
  · rfl
  have hkept : s1.phaseTable = s.phaseTable := by
    obtain ⟨-, hx⟩ | ⟨-, rfl⟩ := hcmd
    · obtain ⟨-, htable, -⟩ := exec_command_keeps (decodeWord_isCommand _) hx
      exact htable
    · rfl
  obtain ⟨-, hx⟩ | ⟨-, rfl⟩ := htick
  · exact (execTick_phaseTable hx).trans hkept
  · exact hkept

theorem step_phaseTable {s t : State} (h : step s = .next t) : t.phaseTable = s.phaseTable := by
  have htable := cycle_phaseTable ((step_eq s).symm.trans h)
  exact htable

/-- What every step keeps, every run keeps. -/
theorem run_keeps {α : Type} (f : State → α) (hstep : ∀ s t, step s = .next t → f t = f s) (k : Nat) {s t : State}
    (h : run k s = .next t) : f t = f s := by
  induction k generalizing s with
  | zero => cases h; rfl
  | succ k ih =>
    obtain ⟨u, hu, ht⟩ := andThen_eq_next h
    exact (ih ht).trans (hstep s u hu)

/-- Settles O45: no step writes the ROM, reset among them, and so no run does. -/
theorem romIsNeverWritten : Obligations.RomIsNeverWritten :=
  fun k _ _ h => run_keeps State.phaseTable (fun _ _ => step_phaseTable) k h

end Sys2Proof.Machine
end

section
/-! PROOFS. What the decoder reads (30_encoding.md R61 to R66): the opcode selects a row, the row's operands are fields of the
word, and no other bit counts. -/

namespace Sys2Proof

/-! ### The row that an opcode selects (R62) -/

theorem opField_of_mod {w : Word} {op : BitVec 3} (h : w.toNat % 8 = op.toNat) : opField w = op :=
  BitVec.eq_of_toNat_eq ((opField_toNat w).trans h)

section Rows

variable {w : Word}

theorem decodeWord_nop (h : opField w = 0b000#3) : decodeWord w = .nop := by
  simp [decodeWord, h]

theorem decodeWord_setStepMode (h : opField w = 0b001#3) : decodeWord w = .setStepMode (decodeMode (modeField w)) := by
  simp [decodeWord, h]

theorem decodeWord_turnSteps (h : opField w = 0b010#3) :
    decodeWord w = .turnSteps (stepsField w) (speedField w) (decodeDir (dirField w)) := by
  simp [decodeWord, h]

theorem decodeWord_turnInfinite (h : opField w = 0b011#3) :
    decodeWord w = .turnInfinite (speedField w) (decodeDir (dirField w)) := by
  simp [decodeWord, h]

theorem decodeWord_stop (h : opField w = 0b100#3) : decodeWord w = .stop (decodeStop (frField w)) := by
  simp [decodeWord, h]

theorem decodeWord_continueMovement (h : opField w = 0b101#3) :
    decodeWord w = .continueMovement (decodeDir (dirField w)) := by
  simp [decodeWord, h]

theorem decodeWord_reserved6 (h : opField w = 0b110#3) : decodeWord w = .reserved6 := by
  simp [decodeWord, h]

theorem decodeWord_reserved7 (h : opField w = 0b111#3) : decodeWord w = .reserved7 := by
  simp [decodeWord, h]

end Rows

/-! ### The operands as arithmetic on the word's value (R63) -/

theorem stepsField_eq_ofNat (w : Word) : stepsField w = BitVec.ofNat 32 (w.toNat / 2 ^ 32) := by
  rw [← stepsField_toNat, BitVec.ofNat_toNat, BitVec.setWidth_eq]

theorem speedField_eq_ofNat (w : Word) : speedField w = BitVec.ofNat 16 (w.toNat / 2 ^ 16 % 2 ^ 16) := by
  rw [← speedField_toNat, BitVec.ofNat_toNat, BitVec.setWidth_eq]

theorem decodeMode_modeField (w : Word) :
    decodeMode (modeField w) =
      if w.toNat / 2 ^ 3 % 4 = 0 then .wave else if w.toNat / 2 ^ 3 % 4 = 1 then .full
        else if w.toNat / 2 ^ 3 % 4 = 2 then .half else .reserved := by
  unfold decodeMode
  simp only [← BitVec.toNat_inj, modeField_toNat]
  rfl

theorem decodeDir_dirField (w : Word) : decodeDir (dirField w) = if w.toNat / 2 ^ 5 % 2 = 0 then .cw else .ccw := by
  rw [dirField_eq]
  obtain h | h := Nat.mod_two_eq_zero_or_one (w.toNat / 2 ^ 5) <;> rw [h] <;> rfl

theorem decodeStop_frField (w : Word) : decodeStop (frField w) = if w.toNat / 2 ^ 6 % 2 = 0 then .torque else .free := by
  rw [frField_eq]
  obtain h | h := Nat.mod_two_eq_zero_or_one (w.toNat / 2 ^ 6) <;> rw [h] <;> rfl

/-- Settles O6: row by row, each operand as its field's arithmetic. -/
theorem decodeReadsOpcodeAndFields : Obligations.DecodeReadsOpcodeAndFields := by
  intro w
  rw [← decodeMode_modeField, ← decodeDir_dirField, ← decodeStop_frField, ← stepsField_eq_ofNat,
    ← speedField_eq_ofNat]
  exact ⟨fun h => decodeWord_nop (opField_of_mod h), fun h => decodeWord_setStepMode (opField_of_mod h),
    fun h => decodeWord_turnSteps (opField_of_mod h), fun h => decodeWord_turnInfinite (opField_of_mod h),
    fun h => decodeWord_stop (opField_of_mod h), fun h => decodeWord_continueMovement (opField_of_mod h),
    fun h => decodeWord_reserved6 (opField_of_mod h), fun h => decodeWord_reserved7 (opField_of_mod h)⟩

/-- Settles O9: each word is run through the decoder. -/
theorem decodeKnownWords : Obligations.DecodeKnownWords := by
  unfold Obligations.DecodeKnownWords
  decide

/-! ### The bits that no row uses (R66) -/

/-- Two words that agree under a mask agree on every field that the mask covers. -/
theorem extractLsb'_eq_of_and_eq {w w' mask : Word} (h : w &&& mask = w' &&& mask) {start len : Nat}
    (hcover : mask.extractLsb' start len = BitVec.allOnes len) : w.extractLsb' start len = w'.extractLsb' start len := by
  have hfield := congrArg (BitVec.extractLsb' start len) h
  rwa [BitVec.extractLsb'_and, BitVec.extractLsb'_and, hcover, BitVec.and_allOnes, BitVec.and_allOnes] at hfield

/-- Two words that agree under a mask agree on every bit that the mask covers. -/
theorem getLsbD_eq_of_and_eq {w w' mask : Word} (h : w &&& mask = w' &&& mask) {k : Nat} (hcover : mask.getLsbD k = true) :
    w.getLsbD k = w'.getLsbD k := by
  have hbit := congrArg (fun v => BitVec.getLsbD v k) h
  simpa only [BitVec.getLsbD_and, hcover, Bool.and_true] using hbit

/-- The bits that each opcode's row uses (R61), `op` among them: the rows of which `DecodeIgnoresUnusedBits` speaks. -/
def usedBits : List (Nat × Word) :=
  [(0, 0x7#64), (1, 0x1F#64), (2, 0xFFFFFFFFFFFF0027#64), (3, 0xFFFF0027#64), (4, 0x47#64), (5, 0x27#64),
    (6, 0x7#64), (7, 0x7#64)]

theorem usedBits_cover_op : ∀ row ∈ usedBits, row.2.extractLsb' 0 3 = BitVec.allOnes 3 := by decide

/-- Settles O7: two words that agree under a row's mask have the same opcode, and the same value in each field of that row. -/
theorem decodeIgnoresUnusedBits : Obligations.DecodeIgnoresUnusedBits := by
  intro row hrow w w' hop h
  have hsame : opField w = opField w' := extractLsb'_eq_of_and_eq h (usedBits_cover_op row hrow)
  simp only [List.mem_cons, List.not_mem_nil, or_false] at hrow
  obtain rfl | rfl | rfl | rfl | rfl | rfl | rfl | rfl := hrow
  · have ho : opField w = 0b000#3 := opField_of_mod hop
    rw [decodeWord_nop ho, decodeWord_nop (hsame ▸ ho)]
  · have ho : opField w = 0b001#3 := opField_of_mod hop
    have hmode : modeField w = modeField w' := extractLsb'_eq_of_and_eq h (by decide)
    rw [decodeWord_setStepMode ho, decodeWord_setStepMode (hsame ▸ ho), hmode]
  · have ho : opField w = 0b010#3 := opField_of_mod hop
    have hsteps : stepsField w = stepsField w' := extractLsb'_eq_of_and_eq h (by decide)
    have hspeed : speedField w = speedField w' := extractLsb'_eq_of_and_eq h (by decide)
    have hdir : dirField w = dirField w' := getLsbD_eq_of_and_eq h (by decide)
    rw [decodeWord_turnSteps ho, decodeWord_turnSteps (hsame ▸ ho), hsteps, hspeed, hdir]
  · have ho : opField w = 0b011#3 := opField_of_mod hop
    have hspeed : speedField w = speedField w' := extractLsb'_eq_of_and_eq h (by decide)
    have hdir : dirField w = dirField w' := getLsbD_eq_of_and_eq h (by decide)
    rw [decodeWord_turnInfinite ho, decodeWord_turnInfinite (hsame ▸ ho), hspeed, hdir]
  · have ho : opField w = 0b100#3 := opField_of_mod hop
    have hfr : frField w = frField w' := getLsbD_eq_of_and_eq h (by decide)
    rw [decodeWord_stop ho, decodeWord_stop (hsame ▸ ho), hfr]
  · have ho : opField w = 0b101#3 := opField_of_mod hop
    have hdir : dirField w = dirField w' := getLsbD_eq_of_and_eq h (by decide)
    rw [decodeWord_continueMovement ho, decodeWord_continueMovement (hsame ▸ ho), hdir]
  · have ho : opField w = 0b110#3 := opField_of_mod hop
    rw [decodeWord_reserved6 ho, decodeWord_reserved6 (hsame ▸ ho)]
  · have ho : opField w = 0b111#3 := opField_of_mod hop
    rw [decodeWord_reserved7 ho, decodeWord_reserved7 (hsame ▸ ho)]

end Sys2Proof
end

section
/-! PROOFS. The commands as the assembler spells them (30_encoding.md R70): a number that fits its field is the field's
value, and the word is the one that the encoder makes. -/

namespace Sys2Proof.Machine

theorem turnSteps_wellFormed_iff (n v : Nat) (d : Direction) :
    (CmdStmt.turnSteps n v d).wellFormed = true ↔ n < 2 ^ 32 ∧ v < 2 ^ 16 := by
  simp [CmdStmt.wellFormed]

theorem turnInfinite_wellFormed_iff (v : Nat) (d : Direction) :
    (CmdStmt.turnInfinite v d).wellFormed = true ↔ v < 2 ^ 16 := by
  simp [CmdStmt.wellFormed]

/-- Settles O11: the word presented is the encoder's word for the command, which the decoder reads back. -/
theorem spelledCommandsDecodeBack : Obligations.SpelledCommandsDecodeBack := by
  refine ⟨fun m => decodeWord_of_encodeWord rfl, fun n v d hwf => ?_, fun v d hwf => ?_,
    fun m => decodeWord_of_encodeWord rfl, fun d => decodeWord_of_encodeWord rfl, decodeWord_of_encodeWord rfl⟩
  · obtain ⟨hn, hv⟩ := (turnSteps_wellFormed_iff n v d).1 hwf
    exact ⟨_, _, decodeWord_of_encodeWord rfl, (BitVec.toNat_ofNat n 32).trans (Nat.mod_eq_of_lt hn),
      (BitVec.toNat_ofNat v 16).trans (Nat.mod_eq_of_lt hv)⟩
  · have hv := (turnInfinite_wellFormed_iff v d).1 hwf
    exact ⟨_, decodeWord_of_encodeWord rfl, (BitVec.toNat_ofNat v 16).trans (Nat.mod_eq_of_lt hv)⟩

end Sys2Proof.Machine
end

section
/-! PROOFS. The reserved encodings (30_encoding.md R64, R65): each raises `ERR_CMD` and nothing more, and the value `2'b11` in
`mode` is reserved for SET_STEP_MODE alone. -/

namespace Sys2Proof.Machine

/-- Every row but SET_STEP_MODE's leaves the two bits of `mode` unused (R61). -/
theorem exists_usedBits_without_mode :
    ∀ op < 8, op ≠ 1 → ∃ row ∈ usedBits, op = row.1 ∧ 0x18#64 &&& row.2 = 0#64 := by decide

/-- Setting bits that a mask leaves out does not show under the mask. -/
theorem or_and_of_and_eq_zero {w bits mask : Word} (h : bits &&& mask = 0#64) : (w ||| bits) &&& mask = w &&& mask := by
  rw [BitVec.and_or_distrib_right, h, BitVec.or_zero]

/-- Settles O15: the mode bits are decoded in one row only, and in the others they are unused bits (R66). -/
theorem reservedModeOnlyFlags : Obligations.ReservedModeOnlyFlags := by
  refine ⟨fun w hop hmode => ?_, fun _ => rfl, fun w hop => ?_⟩
  · rw [decodeWord_setStepMode (opField_of_mod hop), decodeMode_modeField, hmode]
    rfl
  · obtain ⟨row, hrow, heq, hunused⟩ := exists_usedBits_without_mode (w.toNat % 8) (Nat.mod_lt _ (by decide)) hop
    exact (decodeIgnoresUnusedBits row hrow w (w ||| 0x18#64) heq (or_and_of_and_eq_zero hunused).symm).symm

/-- A command with a tick in the same cycle: the tick runs on what the command left, with `out_commit` at 0 (60_exceptions.md
R143). -/
theorem cycle_commandAndTick (w : Word) (s : State) :
    cycle (.commandAndTick w) s = andThen (exec (decodeWord w) s) (fun t => exec .tick (clearCommit t)) := rfl

/-- Settles O16: either opcode decodes to its reserved form, whose next state is the one the tick starts from. -/
theorem reservedOpcodesOnlyFlag : Obligations.ReservedOpcodesOnlyFlag := by
  refine ⟨fun _ => ⟨rfl, rfl⟩, fun w hop => ?_⟩
  have h6 : w.toNat % 8 = 6 → decodeWord w = .reserved6 := fun h => decodeWord_reserved6 (opField_of_mod h)
  have h7 : w.toNat % 8 = 7 → decodeWord w = .reserved7 := fun h => decodeWord_reserved7 (opField_of_mod h)
  refine ⟨h6, h7, fun s => ?_⟩
  rw [cycle_commandAndTick]
  obtain h | h : w.toNat % 8 = 6 ∨ w.toNat % 8 = 7 := by omega
  · rw [h6 h]
    rfl
  · rw [h7 h]
    rfl

end Sys2Proof.Machine
end

section
/-! PROOFS. Idle cycles (30_encoding.md R71): a quiet cycle clears `out_commit`, and where that is clear already and nothing is
listed (log entry 2) it changes nothing. -/

namespace Sys2Proof.Machine

theorem step_quiet {s : State} {rest : List CycleInput} (h : s.inputs = .quiet :: rest) :
    step s = .next { s with outCommit := false, inputs := rest } :=
  step_cons h

/-- A run goes on from where a first part of it ended. -/
theorem run_add {k : Nat} (j : Nat) {s t : State} (h : run k s = .next t) : run (k + j) s = run j t := by
  induction k generalizing s with
  | zero => cases h; rw [Nat.zero_add]
  | succ k ih =>
    obtain ⟨u, hu, ht⟩ := andThen_eq_next h
    rw [Nat.succ_add, run, hu, andThen_next]
    exact ih ht

theorem run_quiet (k : Nat) {rest : List CycleInput} {s : State}
    (h : s.inputs = List.replicate (k + 1) CycleInput.quiet ++ rest) :
    run (k + 1) s = .next { s with outCommit := false, inputs := rest } := by
  induction k generalizing s with
  | zero => rw [run, step_quiet h]; rfl
  | succ k ih => rw [run, step_quiet h, andThen_next]; exact ih rfl

/-- With nothing listed for the ports and no commit to clear, no step changes anything (log entry 2). -/
theorem run_nil {s : State} (h : s.inputs = []) (hcommit : s.outCommit = false) (j : Nat) : run j s = .next s := by
  have hstep : step s = .next s := by
    rw [step_nil h, clearCommit, ← hcommit]
  induction j with
  | zero => rfl
  | succ j ih => rw [run, hstep, andThen_next, ih]

/-- Settles O4: by induction on the idle cycles, and then on the steps past them. -/
theorem idleCyclesOnlyClearCommit : Obligations.IdleCyclesOnlyClearCommit := by
  rintro (_ | k) rest s h hk
  · exact absurd hk (Nat.lt_irrefl 0)
  · have hrun := run_quiet k h
    refine ⟨hrun, fun hrest j => ?_⟩
    subst hrest
    rw [run_add j hrun, run_nil rfl rfl]

end Sys2Proof.Machine
end

section
/-! PROOFS. The phase table and its selector (40_phase_table.md R81 to R83). -/

namespace Sys2Proof.Machine

/-- Settles O35, by the selector's two branches. -/
theorem phaseTableMuxSelects : Obligations.PhaseTableMuxSelects :=
  ⟨phaseTableMux_off, fun rom i => ⟨rfl, phaseTableMux_row rom i⟩⟩

@[simp] theorem reset_phaseTable : State.reset.phaseTable = defaultPhaseTable := rfl

/-- Settles O53: with `sel_off = 0` the selector reads the ROM's row, and the eight rows of the default table are compared with
R81 one by one. -/
theorem defaultTableContents : Obligations.DefaultTableContents := by
  simp only [Obligations.DefaultTableContents, phaseTableMux_row, reset_phaseTable, List.forall_mem_cons]
  exact ⟨rfl, rfl, rfl, rfl, rfl, rfl, rfl, rfl, List.forall_mem_nil _⟩

end Sys2Proof.Machine
end

section
/-! PROOFS. The configuration commands (41_configuration.md R90 to R92): NOP leaves the state alone, and SET_STEP_MODE stores the
mode and moves the index to the nearest row of its parity. -/

namespace Sys2Proof.Machine

/-! ### The index repair (R91, R92) -/

@[simp] theorem repairIndex_none (m : StepMode) : repairIndex m none = if m = .full then 1 else 0 := rfl

@[simp] theorem repairIndex_wave_some (i : Fin 8) :
    repairIndex .wave (some i) = if i.val % 2 = 1 then i - 1 else i := by
  simp [repairIndex]

@[simp] theorem repairIndex_full_some (i : Fin 8) :
    repairIndex .full (some i) = if i.val % 2 = 0 then i + 1 else i := by
  simp [repairIndex]

@[simp] theorem repairIndex_half_some (i : Fin 8) : repairIndex .half (some i) = i := rfl

/-- An even row has a row after it: the repair for FULL does not wrap. -/
theorem val_add_one_of_even {i : Fin 8} (h : i.val % 2 = 0) : (i + 1).val = i.val + 1 :=
  Fin.val_add_one_of_lt' (by omega)

/-- An odd row has a row before it: the repair for WAVE does not wrap. -/
theorem val_sub_one_of_odd {i : Fin 8} (h : i.val % 2 = 1) : (i - 1).val = i.val - 1 :=
  Fin.val_sub_one_of_ne_zero (fun h0 => by simp [h0] at h)

/-- Everything the repair of a set index can do: one row down to an even one, one row up to an odd one, or no move from a row
of the mode's parity. -/
theorem repairIndex_some_cases (m : StepMode) (i : Fin 8) :
    (m = .wave ∧ i.val % 2 = 1 ∧ (repairIndex m (some i)).val = i.val - 1) ∨
    (m = .full ∧ i.val % 2 = 0 ∧ (repairIndex m (some i)).val = i.val + 1) ∨
    ((m = .wave → i.val % 2 = 0) ∧ (m = .full → i.val % 2 = 1) ∧ repairIndex m (some i) = i) := by
  obtain hi | hi := Nat.mod_two_eq_zero_or_one i.val <;> cases m
  case inl.full => exact .inr (.inl ⟨rfl, hi, by simp [hi, val_add_one_of_even]⟩)
  case inr.wave => exact .inl ⟨rfl, hi, by simp [hi, val_sub_one_of_odd]⟩
  all_goals exact .inr (.inr (by simp [hi]))

theorem repairIndex_moves_at_most_one (m : StepMode) (i : Fin 8) :
    (repairIndex m (some i)).val ≤ i.val + 1 ∧ i.val ≤ (repairIndex m (some i)).val + 1 := by
  obtain ⟨-, -, h⟩ | ⟨-, -, h⟩ | ⟨-, -, h⟩ := repairIndex_some_cases m i <;> omega

theorem repairIndex_eq_self {m : StepMode} {i : Fin 8} (hwave : m = .wave → i.val % 2 = 0)
    (hfull : m = .full → i.val % 2 = 1) : repairIndex m (some i) = i := by
  obtain ⟨hm, hodd, -⟩ | ⟨hm, heven, -⟩ | ⟨-, -, h⟩ := repairIndex_some_cases m i
  · have heven := hwave hm
    omega
  · have hodd := hfull hm
    omega
  · exact h

/-! ### SET_STEP_MODE and NOP -/

/-- SET_STEP_MODE of a mode that is not the reserved one (R91). -/
theorem exec_setStepMode_operandOfMode (m : StepMode) (s : State) :
    exec (.setStepMode (operandOfMode m)) s =
      .next { s with stepMode := m, currentIndex := some (repairIndex m s.currentIndex) } := by
  cases m <;> rfl

/-- Settles O14: the next state holds the repaired index, of which each clause is a fact about the repair. -/
theorem modeSwitchMovesAtMostOne : Obligations.ModeSwitchMovesAtMostOne := by
  intro m s
  refine ⟨_, _, exec_setStepMode_operandOfMode m s, rfl, rfl,
    (parityOk_iff_of_some rfl).2 (repairIndex_parity m s.currentIndex), fun i hi => ?_⟩
  rw [hi]
  refine ⟨repairIndex_moves_at_most_one m i, fun hparity hm => ?_⟩
  obtain ⟨hwave, hfull⟩ := (parityOk_iff_of_some hi).1 hparity
  exact repairIndex_eq_self (hm ▸ hwave) (hm ▸ hfull)

/-- Settles O13: the repair of R91 is that of R92's table, mode by mode, with and without an index. -/
theorem setStepModeRepairsIndex : Obligations.SetStepModeRepairsIndex := by
  intro s
  refine ⟨(exec_setStepMode_operandOfMode .wave s).trans ?_, (exec_setStepMode_operandOfMode .full s).trans ?_,
    (exec_setStepMode_operandOfMode .half s).trans ?_⟩ <;>
  cases s.currentIndex with
  | none => rfl
  | some i => simp

/-- Settles O12: opcode 000 is NOP's row (R62), and the tick of its cycle runs on the state that NOP left as it was. -/
theorem nopChangesNothing : Obligations.NopChangesNothing := by
  refine ⟨exec_nop, fun w hop => ?_⟩
  have hdecode : decodeWord w = .nop := decodeWord_nop (opField_of_mod hop)
  refine ⟨hdecode, fun s => ?_⟩
  rw [cycle_commandAndTick, hdecode, exec_nop, andThen_next, exec_tick, cycle_tickOnly]

end Sys2Proof.Machine
end

section
/-! PROOFS. The movement commands (42_movement.md R100 to R106): the next state of each, with the clamp of a speed operand and
the bookkeeping of a reversal; the `stop_mode` that each instruction leaves; and that no command touches the outputs. -/

namespace Sys2Proof.Machine

/-! ### The speed operand (42_movement.md R100) -/

/-- The flag of a speed operand writes `err` only. -/
theorem flagSpeed_eq (v : Speed) (s : State) :
    flagSpeed v s = { s with err := if v = 0#16 then s.err ||| 0b010#3 else s.err } := by
  unfold flagSpeed; split <;> rfl

/-- Settles O17: apart from the registers that R101 names, only the flag of the speed operand writes, and it writes `err`. -/
theorem turnStepsStartsFiniteTurn : Obligations.TurnStepsStartsFiniteTurn := by
  intro n v d s
  rw [exec_turnSteps, execTurnSteps, flagSpeed_eq, clampSpeed]

/-- Settles O18: as O17, without the step counts (R102). -/
theorem turnInfiniteStartsInfiniteTurn : Obligations.TurnInfiniteStartsInfiniteTurn := by
  intro v d s
  rw [exec_turnInfinite, execTurnInfinite, flagSpeed_eq, clampSpeed]

theorem ne_zero_of_thousand_lt {v : Speed} (h : 1000 < v.toNat) : v ≠ 0#16 := by
  rintro rfl
  exact absurd h (by decide)

/-- Above `TICKS_PER_SECOND` the floor division gives 0: every tick is then a step decision (43_tick.md R120). -/
theorem interval_eq_zero_of_thousand_lt {v : Speed} (h : 1000 < v.toNat) : interval v = 0 := by
  rw [interval_of_ne_zero (ne_zero_of_thousand_lt h), Nat.div_eq_of_lt h]

/-- In a state that holds the clamped speed operand and its flag, R100's three remarks on a speed hold. -/
theorem speed_err_of_clamped {v : Speed} {s t : State} (hspeed : t.speed = clampSpeed v) (herr : t.err = (flagSpeed v s).err) :
    (v = 0#16 → t.speed = 1#16 ∧ t.err = s.err ||| 0b010#3) ∧
    (v ≠ 0#16 → t.speed = v ∧ t.err = s.err) ∧
    (1000 < v.toNat → interval t.speed = 0) := by
  have hkept : v ≠ 0#16 → t.speed = v ∧ t.err = s.err := fun hv =>
    ⟨hspeed.trans (if_neg hv), herr.trans (by rw [flagSpeed_err, if_neg hv])⟩
  refine ⟨fun hv => ⟨hspeed.trans (if_pos hv), herr.trans (by rw [flagSpeed_err, if_pos hv]; rfl)⟩, hkept, fun hlt => ?_⟩
  obtain ⟨hv, -⟩ := hkept (ne_zero_of_thousand_lt hlt)
  rw [hv, interval_eq_zero_of_thousand_lt hlt]

/-- Settles O19: both TURN commands store the clamped speed and the flag. -/
theorem speedOperandIsClamped : Obligations.SpeedOperandIsClamped := by
  rintro i v (⟨n, d, rfl⟩ | ⟨d, rfl⟩) s
  · exact ⟨_, exec_turnSteps n v d s, rfl, speed_err_of_clamped rfl rfl⟩
  · exact ⟨_, exec_turnInfinite v d s, rfl, speed_err_of_clamped rfl rfl⟩

/-! ### STOP and CONTINUE_MOVEMENT (42_movement.md R103, R104) -/

/-- Settles O20: each operand names its stop mode, which is all that STOP writes. -/
theorem stopWritesStopModeOnly : Obligations.StopWritesStopModeOnly :=
  fun s => ⟨exec_stop .torque s, exec_stop .free s⟩

/-- STOP cannot name TURNING (30_encoding.md R63). -/
theorem stopModeOfOperand_ne_turning (m : StopOperand) : stopModeOfOperand m ≠ .turning := by
  cases m <;> decide

/-- A continuation in the stored direction has no bookkeeping. -/
theorem foldReversal_of_eq {d : Direction} {s : State} (h : d = s.direction) : foldReversal d s = s := if_pos h

theorem foldReversal_of_ne {d : Direction} {s : State} (h : d ≠ s.direction) :
    foldReversal d s = { s with totalSteps := s.totalSteps - s.remainingSteps, direction := d } := if_neg h

/-- CONTINUE_MOVEMENT of a block that is not turning. -/
theorem exec_continueMovement_of_ne {s : State} (h : s.stopMode ≠ .turning) (d : Direction) :
    exec (.continueMovement d) s = .next { foldReversal d s with stopMode := .turning } := if_neg h

/-- A step count that is a difference modulo 2^32 is the difference of the words. -/
theorem eq_sub_of_toNat_eq_emod {a b c : StepCount} (h : (c.toNat : Int) = ((a.toNat : Int) - b.toNat) % 2 ^ 32) :
    c = a - b := by
  apply BitVec.eq_of_toNat_eq
  rw [BitVec.toNat_sub]
  omega

/-- Settles O22: the guard of R104, and then the reversal's bookkeeping for an equal and for another direction. -/
theorem continueMovementResumes : Obligations.ContinueMovementResumes := by
  refine fun d s => ⟨fun hturning => if_pos hturning, fun hstop hd => ?_, fun hstop hd total htotal => ?_⟩
  · rw [exec_continueMovement_of_ne hstop, foldReversal_of_eq hd]
  · rw [exec_continueMovement_of_ne hstop, foldReversal_of_ne hd, eq_sub_of_toNat_eq_emod htotal]

/-- Settles O21: STOP overwrites one register with a value that its operand alone gives, and for the same direction
CONTINUE_MOVEMENT overwrites the same register with TURNING. -/
theorem stopIsIdempotentAndResumable : Obligations.StopIsIdempotentAndResumable := by
  refine ⟨fun m s t h => ?_, fun m s t hturning h => ?_⟩
  · cases h; rfl
  · cases h
    have hback : { s with stopMode := .turning } = s := by rw [← hturning]
    obtain ⟨-, hsame, -⟩ := continueMovementResumes s.direction { s with stopMode := stopModeOfOperand m }
    exact (hsame (stopModeOfOperand_ne_turning m) rfl).trans (congrArg _ hback)

/-! ### The stop mode (42_movement.md R105) -/

/-- Settles O23: instruction by instruction; CONTINUE_MOVEMENT ends in TURNING whether it finds TURNING or writes it. -/
theorem stopModeTransitions : Obligations.StopModeTransitions := by
  intro i s t h
  cases i with
  | tick =>
    obtain ⟨-, -, hstop, -⟩ := execTick_keeps h
    exact hstop
  | setStepMode m =>
    obtain ⟨-, e⟩ | ⟨_, -, e⟩ := execSetStepMode_cases m s <;> rw [exec_setStepMode, e] at h <;> cases h <;> rfl
  | continueMovement d =>
    obtain ⟨hturning, e⟩ | ⟨-, e⟩ := execContinueMovement_cases d s <;> rw [exec_continueMovement, e] at h <;> cases h
    · exact hturning
    · rfl
  | stop m => cases h; cases m <;> rfl
  | _ => cases h; rfl

/-! ### The outputs and the accumulator (42_movement.md R106; 43_tick.md R121) -/

/-- No command writes `out_commit`: within a cycle only the tick phase commits (20_memory.md R48). -/
theorem exec_command_outCommit {i : Instr} {s t : State} (hc : i.isCommand = true) (h : exec i s = .next t) :
    t.outCommit = s.outCommit := by
  cases i with
  | tick => exact nomatch hc
  | setStepMode m =>
    obtain ⟨-, e⟩ | ⟨_, -, e⟩ := execSetStepMode_cases m s <;> rw [exec_setStepMode, e] at h <;> cases h <;> rfl
  | continueMovement d =>
    obtain ⟨-, e⟩ | ⟨-, e⟩ := execContinueMovement_cases d s <;> rw [exec_continueMovement, e] at h <;> cases h <;> simp
  | turnSteps n v d | turnInfinite v d => cases h; simp
  | nop | stop _ | reserved6 | reserved7 => cases h; rfl

/-- A tick below the interval counts. -/
theorem exec_tick_of_lt {s : State} (h : s.elapsedMs.toNat + 1 < interval s.speed) :
    exec .tick s = .next (setElapsed (s.elapsedMs.toNat + 1) (clearCommit s)) := if_pos h

/-- A tick that reaches the interval is a step decision, made with `elapsed_ms` at 0. -/
theorem exec_tick_of_le {s : State} (h : interval s.speed ≤ s.elapsedMs.toNat + 1) :
    exec .tick s = .next (stepDecision (setElapsed 0 (clearCommit s))) := if_neg (Nat.not_lt.2 h)

/-- Settles O24: no command writes any of the three; a tick below the interval writes the count only, which stays below 1000
and so fits its 10 bits; and a step decision keeps the `elapsed_ms = 0` it starts from. -/
theorem commandsLeaveOutputsAlone : Obligations.CommandsLeaveOutputsAlone := by
  refine ⟨fun i s t hc h => ⟨(exec_command_keeps hc h).1, exec_command_phaseOut hc h, exec_command_outCommit hc h⟩,
    fun s hlt => ⟨_, exec_tick_of_lt hlt, rfl, rfl⟩, fun s hv hlt => ⟨_, exec_tick_of_lt hlt, ?_⟩,
    fun s hle => ⟨_, exec_tick_of_le hle, ?_⟩⟩
  · have hfits : s.elapsedMs.toNat + 1 < 2 ^ 10 := by
      have hle := interval_le hv
      omega
    rw [setElapsed_elapsedMs, BitVec.toNat_ofNat, Nat.mod_eq_of_lt hfits]
  · obtain ⟨-, -, -, -, -, -, helapsed, -⟩ := stepDecision_keeps (setElapsed 0 (clearCommit s))
    exact helapsed

end Sys2Proof.Machine
end

section
/-! PROOFS. The tick (43_tick.md R120 to R129): the interval, the index adder, the step decision branch by branch, and with
them the next state of a tick in each case. -/

namespace Sys2Proof.Machine

/-! ### The branches of the step decision (R122) -/

section Branches

variable {s : State}

theorem stepDecision_free (hstop : s.stopMode = .free) : stepDecision s = commit 0#4 s := by
  simp [stepDecision, holdFree, hstop]

theorem stepDecision_torque {i : Fin 8} (hstop : s.stopMode = .torque) (hi : s.currentIndex = some i) :
    stepDecision s = commit (romRow s.phaseTable i) s := by
  simp [stepDecision, holdTorque, hstop, hi]

theorem stepDecision_advance {i : Fin 8} (hstop : s.stopMode = .turning) (hactive : s.active = true)
    (hi : s.currentIndex = some i) :
    stepDecision s = commit (romRow s.phaseTable (indexAdd i (delta s.direction s.stepMode)))
      { s with
        currentIndex := some (indexAdd i (delta s.direction s.stepMode))
        remainingSteps := countStep s.isInfinite s.remainingSteps } := by
  simp [stepDecision, advance, hstop, hactive, hi]

theorem stepDecision_completed (hstop : s.stopMode = .turning) (hactive : s.active = false) : stepDecision s = s := by
  simp [stepDecision, completed, hstop, hactive]

theorem stepDecision_uninit (hstop : s.stopMode = .torque ∨ s.stopMode = .turning ∧ s.active = true)
    (hi : s.currentIndex = none) : stepDecision s = raiseError .uninit s := by
  obtain hstop | ⟨hstop, hactive⟩ := hstop
  · simp [stepDecision, holdTorque, uninit, hstop, hi]
  · simp [stepDecision, advance, uninit, hstop, hactive, hi]

end Branches

/-! ### What a commit shows (R123, R124) -/

/-- The pattern that a commit shows is the off pattern in FREE, and else the ROM's row at the index. -/
def State.PatternMatchesIndex (s : State) : Prop :=
  (s.stopMode = .free ∧ s.phaseOut = 0b0000#4) ∨
  (s.stopMode ≠ .free ∧ ∃ i : Fin 8, s.currentIndex = some i ∧ s.phaseOut = romRow s.phaseTable i)

/-- Of the five branches, the three that commit show the pattern of the state they leave. -/
theorem stepDecision_patternMatchesIndex {s : State} (hs : s.outCommit = false) (h : (stepDecision s).outCommit = true) :
    (stepDecision s).PatternMatchesIndex := by
  obtain ⟨hstop, e⟩ | ⟨i, hstop, hi, e⟩ | ⟨i, hstop, -, -, e⟩ | ⟨-, -, e⟩ | ⟨-, -, e⟩ := stepDecision_cases s <;>
    rw [e] at h ⊢
  · exact .inl ⟨hstop, rfl⟩
  · exact .inr ⟨by simp [hstop], i, hi, rfl⟩
  · exact .inr ⟨by simp [hstop], _, rfl, rfl⟩
  · exact nomatch hs.symm.trans h
  · exact nomatch hs.symm.trans h

theorem execTick_patternMatchesIndex {s t : State} (h : execTick s = .next t) (ht : t.outCommit = true) :
    t.PatternMatchesIndex := by
  obtain ⟨-, e⟩ | ⟨-, e⟩ := execTick_cases s <;> rw [e] at h <;> cases h
  · exact nomatch ht
  · exact stepDecision_patternMatchesIndex rfl ht

/-- Settles O42: a cycle that ends with `out_commit = 1` is one whose tick committed, since reset and the end of the command
phase both leave it 0. -/
theorem committedPatternMatchesIndex : Obligations.CommittedPatternMatchesIndex := by
  intro s t h ht
  rw [step_eq] at h
  obtain ⟨-, rfl⟩ | ⟨-, s1, -, ⟨-, hx⟩ | ⟨-, rfl⟩⟩ := cycle_cases h
  · exact nomatch ht
  · exact execTick_patternMatchesIndex hx ht
  · exact nomatch ht

/-! ### The tick that counts and the tick that decides (R121) -/

/-- Settles O27: what the count's write keeps, the low 10 bits (log entry 7), is the sum of the 10-bit words. -/
theorem tickBelowIntervalCounts : Obligations.TickBelowIntervalCounts := by
  intro s hv hlt
  rw [← interval_of_ne_zero hv] at hlt
  have hcount : BitVec.ofNat 10 (s.elapsedMs.toNat + 1) = s.elapsedMs + 1#10 := by
    rw [BitVec.ofNat_add, BitVec.ofNat_toNat, BitVec.setWidth_eq]
  rw [exec_tick_of_lt hlt, setElapsed, hcount]
  rfl

/-- A tick at the interval of a stored speed leaves what its step decision makes of the state with `elapsed_ms` and
`out_commit` at 0. -/
theorem exec_tick_of_stepDecision {s u : State} (hv : s.speed ≠ 0#16)
    (hle : 1000 / s.speed.toNat ≤ s.elapsedMs.toNat + 1) (hu : stepDecision (setElapsed 0 (clearCommit s)) = u) :
    exec .tick s = .next u := by
  rw [exec_tick_of_le (by rwa [interval_of_ne_zero hv]), hu]

/-- Settles O28, by the FREE branch. -/
theorem freeDecisionCommitsOff : Obligations.FreeDecisionCommitsOff :=
  fun _ hv hle hstop => exec_tick_of_stepDecision hv hle (stepDecision_free hstop)

/-- Settles O29, by the TORQUE branch with an index. -/
theorem torqueDecisionCommitsRow : Obligations.TorqueDecisionCommitsRow :=
  fun _ _ hv hle hstop hi => exec_tick_of_stepDecision hv hle (stepDecision_torque hstop hi)

/-- A turn is over when it is finite and nothing remains of it. -/
theorem active_eq_false {s : State} (hinf : s.isInfinite = false) (hr : s.remainingSteps = 0#32) : s.active = false := by
  simp [State.active, hinf, hr]

/-- Settles O31, by the completed branch. -/
theorem completedDecisionDoesNothing : Obligations.CompletedDecisionDoesNothing :=
  fun _ hv hle hstop hinf hr =>
    exec_tick_of_stepDecision hv hle (stepDecision_completed hstop (active_eq_false hinf hr))

/-- Settles O32, by UNINIT, to which TORQUE and an active turn both come without an index. -/
theorem uninitDecisionFlags : Obligations.UninitDecisionFlags := by
  intro s hv hle hstop hi
  rw [← active_iff] at hstop
  exact exec_tick_of_stepDecision hv hle (stepDecision_uninit hstop hi)

/-- The signed increment of R127 from the direction's sign and the mode's skip factor. -/
theorem delta_eq (d : Direction) (m : StepMode) :
    delta d m = (if d = .cw then 1 else -1) * (if m = .half then 1 else 2) := by
  cases d <;> cases m <;> rfl

/-- The sum modulo 8 determines the row (R128). -/
theorem eq_indexAdd_of_val {i j : Fin 8} {x : Int} (h : (j.val : Int) = ((i.val : Int) + x) % 8) : j = indexAdd i x :=
  Fin.ext (Int.ofNat_inj.1 (h.trans (indexAdd_val i x).symm))

/-- An active turn counts down unless it is infinite: the floor of R129 is not reached. -/
theorem countStep_of_active {s : State} (h : s.active = true) :
    countStep s.isInfinite s.remainingSteps = if s.isInfinite = true then s.remainingSteps else s.remainingSteps - 1#32 := by
  cases hinf : s.isInfinite with
  | true => rfl
  | false => exact countStep_finite (((active_iff s).1 h).resolve_left (by simp [hinf]))

/-- Settles O30, by the advance branch with an index. -/
theorem activeDecisionAdvances : Obligations.ActiveDecisionAdvances := by
  intro s i j hv hle hstop hactive hi hj
  rw [← active_iff] at hactive
  rw [← delta_eq] at hj
  rw [eq_indexAdd_of_val hj, ← countStep_of_active hactive]
  exact exec_tick_of_stepDecision hv hle (stepDecision_advance hstop hactive hi)

/-! ### The frame of a tick (R121 to R126) -/

theorem execTick_inputs {s t : State} (h : execTick s = .next t) : t.inputs = s.inputs := by
  obtain ⟨-, e⟩ | ⟨-, e⟩ := execTick_cases s <;> rw [e] at h <;> cases h
  · rfl
  · obtain ⟨-, -, -, -, -, -, -, -, hinputs⟩ := stepDecision_keeps (setElapsed 0 (clearCommit s))
    exact hinputs

theorem execTick_err {s t : State} (h : execTick s = .next t) : t.err = s.err ∨ t.err = s.err ||| 0b100#3 := by
  obtain ⟨-, -, he⟩ | ⟨-, -, -, -, he⟩ | ⟨-, -, -, -, -, he⟩ := execTick_writes h
  · exact .inl he
  · exact .inl he
  · exact .inr he

/-- Settles O33: the registers, the ROM, the port list and `err` in turn, of whatever state the tick leaves. -/
theorem tickFrame : Obligations.TickFrame := by
  intro s
  obtain ⟨t, h⟩ := exists_exec_eq_next .tick s
  rw [exec_tick] at h
  obtain ⟨hmode, hdir, hstop, htotal, hinf, hspeed⟩ := execTick_keeps h
  exact ⟨t, h, hmode, hdir, hstop, htotal, hinf, hspeed, execTick_phaseTable h, execTick_inputs h, execTick_err h⟩

/-! ### The interval (R120) -/

/-- The two inequalities of the floor determine the interval. -/
theorem interval_eq_of_bounds {v : Speed} {q : Nat} (hle : q * v.toNat ≤ 1000) (hlt : 1000 < (q + 1) * v.toNat) :
    interval v = q := by
  have hv : v ≠ 0#16 := by rintro rfl; exact absurd hlt (by simp)
  rw [interval_of_ne_zero hv]
  exact Nat.div_eq_of_lt_le hle hlt

/-- Settles O34: a division's quotient meets the two inequalities, and each row of the table is a quotient that does. -/
theorem intervalIsFloorOfThousandth : Obligations.IntervalIsFloorOfThousandth := by
  refine ⟨fun v hv => ?_, interval_eq_of_bounds (by decide) (by decide), interval_eq_of_bounds (by decide) (by decide),
    interval_eq_of_bounds (by decide) (by decide), interval_eq_of_bounds (by decide) (by decide),
    interval_eq_of_bounds (by decide) (by decide), fun v hlo hhi => interval_eq_of_bounds (by omega) (by omega),
    fun v hlo hhi => interval_eq_of_bounds (by omega) (by omega), fun v hlo => interval_eq_zero_of_thousand_lt hlo⟩
  have hpos : 0 < v.toNat := by bv_omega
  rw [interval_of_ne_zero hv]
  exact ⟨Nat.div_mul_le_self _ _, (Nat.lt_mul_div_succ 1000 hpos).trans_eq (Nat.mul_comm _ _)⟩

/-! ### The index adder (R127, R128) -/

/-- Dropping the carry of the 3-bit sum is the modulo of R128, row by row. -/
theorem ofNat_indexAdd_delta (i : Fin 8) (d : Direction) (m : StepMode) :
    BitVec.ofNat 3 (indexAdd i (delta d m)).val = BitVec.ofNat 3 i.val + deltaBits d m := by
  revert i
  cases d <;> cases m <;> decide

/-- Settles O36: the values of R127 one by one, and the adder's two descriptions. -/
theorem indexAdderIsThreeBitSum : Obligations.IndexAdderIsThreeBitSum :=
  ⟨rfl, rfl, rfl, rfl, rfl, rfl, rfl, rfl, rfl, rfl, rfl, rfl, rfl, rfl, rfl,
    fun i d m => ⟨indexAdd_val i (delta d m), ofNat_indexAdd_delta i d m⟩⟩

end Sys2Proof.Machine
end

section
/-! PROOFS. `ERR_UNINIT` needs a missing index (43_tick.md R126; 93_implementation_defined.md U2): only reset takes the index
away, so that a run without reset that starts with one records no precondition violation. -/

namespace Sys2Proof.Machine

/-- No instruction takes the index away. -/
theorem exec_currentIndex_ne_none {i : Instr} {s t : State} (h : exec i s = .next t) (hs : s.currentIndex ≠ none) :
    t.currentIndex ≠ none := by
  cases i with
  | tick =>
    obtain ⟨-, e⟩ | ⟨-, e⟩ := execTick_cases s <;> rw [exec_tick, e] at h <;> cases h
    · exact hs
    · obtain ⟨-, e⟩ | ⟨i, -, -, e⟩ | ⟨i, -, -, -, e⟩ | ⟨-, -, e⟩ | ⟨-, hi, -⟩ :=
        stepDecision_cases (setElapsed 0 (clearCommit s))
      case inr.inr.inr.inr => exact absurd hi hs
      all_goals rw [e]; simp [hs]
  | setStepMode m =>
    obtain ⟨-, e⟩ | ⟨_, -, e⟩ := execSetStepMode_cases m s <;> rw [exec_setStepMode, e] at h <;> cases h <;> simp [hs]
  | continueMovement d =>
    obtain ⟨-, e⟩ | ⟨-, e⟩ := execContinueMovement_cases d s <;> rw [exec_continueMovement, e] at h <;> cases h <;>
      simp [hs]
  | turnSteps n v d | turnInfinite v d => cases h; simp [hs]
  | nop | stop _ | reserved6 | reserved7 => cases h; exact hs

/-- `ERR_UNINIT` is bit 2 of `err` (10_state.md R32). -/
theorem faulted_eq (s : State) : s.faulted = s.err.getLsbD 2 := by
  unfold State.faulted State.hasError
  generalize s.err = e
  revert e
  decide

/-- With an index no instruction raises `ERR_UNINIT`. -/
theorem exec_faulted {i : Instr} {s t : State} (h : exec i s = .next t) (hs : s.currentIndex ≠ none) :
    t.faulted = s.faulted := by
  rw [faulted_eq, faulted_eq]
  by_contra hne
  obtain ⟨-, -, -, -, -, -, -, -, -, -, huninit⟩ := registerWriters i s t h
  obtain ⟨-, -, hi, -⟩ := huninit hne
  exact hs hi

/-- An index is held and `ERR_UNINIT` is clear. -/
def State.Indexed (s : State) : Prop := s.currentIndex ≠ none ∧ s.faulted = false

theorem exec_indexed {i : Instr} {s t : State} (hs : s.Indexed) (h : exec i s = .next t) : t.Indexed := by
  obtain ⟨hi, hf⟩ := hs
  exact ⟨exec_currentIndex_ne_none h hi, (exec_faulted h hi).trans hf⟩

theorem cycle_indexed {c : CycleInput} {s t : State} (hrst : c.rst = false) (hs : s.Indexed) (h : cycle c s = .next t) :
    t.Indexed := by
  obtain ⟨hr, -⟩ | ⟨-, s1, hcmd, htick⟩ := cycle_cases h
  · exact nomatch hrst.symm.trans hr
  have h1 : s1.Indexed := by
    obtain ⟨-, hx⟩ | ⟨-, rfl⟩ := hcmd
    · exact exec_indexed hs hx
    · exact hs
  obtain ⟨-, hx⟩ | ⟨-, rfl⟩ := htick
  · exact exec_indexed (i := .tick) (s := clearCommit s1) h1 hx
  · exact h1

/-- No cycle writes the port list: it is the outside's (20_memory.md R40 to R42). -/
theorem cycle_inputs {c : CycleInput} {s t : State} (h : cycle c s = .next t) : t.inputs = s.inputs := by
  obtain ⟨-, rfl⟩ | ⟨-, s1, hcmd, htick⟩ := cycle_cases h
  · rfl
  have hkept : s1.inputs = s.inputs := by
    obtain ⟨-, hx⟩ | ⟨-, rfl⟩ := hcmd
    · obtain ⟨-, -, hinputs⟩ := exec_command_keeps (decodeWord_isCommand _) hx
      exact hinputs
    · rfl
  obtain ⟨-, hx⟩ | ⟨-, rfl⟩ := htick
  · exact (execTick_inputs hx).trans hkept
  · exact hkept

theorem step_inputs {s t : State} (h : step s = .next t) : t.inputs = s.inputs.tail := by
  rw [step_eq] at h
  exact cycle_inputs h

/-- Nothing listed for the ports carries a reset. -/
def State.NoResetListed (s : State) : Prop := ∀ c ∈ s.inputs, c.rst = false

/-- The next cycle is then without reset: the head of the list is, and past its end the ports are quiet (log entry 2). -/
theorem rst_headD_eq_false {s : State} (h : s.NoResetListed) : (s.inputs.headD .quiet).rst = false := by
  unfold State.NoResetListed at h
  cases hin : s.inputs with
  | nil => rfl
  | cons c rest => exact h c (by simp [hin])

theorem step_indexed {s t : State} (hrst : s.NoResetListed) (hs : s.Indexed) (h : step s = .next t) : t.Indexed := by
  rw [step_eq] at h
  exact cycle_indexed (s := { s with inputs := s.inputs.tail }) (rst_headD_eq_false hrst) hs h

theorem step_noResetListed {s t : State} (hrst : s.NoResetListed) (h : step s = .next t) : t.NoResetListed :=
  fun c hc => hrst c (List.mem_of_mem_tail (step_inputs h ▸ hc))

/-- What rules a recorded violation out and is kept by every step makes every run safe. -/
theorem safeRun_of_invariant {P : State → Prop} (hsafe : ∀ s, P s → s.faulted = false)
    (hstep : ∀ s t, P s → step s = .next t → P t) (k : Nat) {s : State} (hs : P s) : safeRun k s := by
  induction k generalizing s with
  | zero => exact hsafe s hs
  | succ k ih => exact ⟨hsafe s hs, fun t ht => ih (hstep s t hs ht)⟩

/-- Settles O48: the invariant is that an index is held, `ERR_UNINIT` is clear, and no reset is listed. -/
theorem modeOnceSetNeverUninit : Obligations.ModeOnceSetNeverUninit := fun k _ hrst hi hf =>
  safeRun_of_invariant (P := fun s => s.NoResetListed ∧ s.Indexed) (fun _ ⟨_, _, hf⟩ => hf)
    (fun _ _ ⟨hrst, hs⟩ h => ⟨step_noResetListed hrst h, step_indexed hrst hs h⟩) k ⟨hrst, hi, hf⟩

end Sys2Proof.Machine
end

section
/-! PROOFS. Runs of ticks (43_tick.md R121; 30_encoding.md R71): such a run is one function on states, iterated. -/

namespace Sys2Proof.Machine

/-! ### One tick as a function -/

/-- The state that a tick leaves (R121), which it does from every state. -/
def afterTick (s : State) : State :=
  if s.elapsedMs.toNat + 1 < interval s.speed then setElapsed (s.elapsedMs.toNat + 1) (clearCommit s)
  else stepDecision (setElapsed 0 (clearCommit s))

theorem afterTick_of_lt {s : State} (h : s.elapsedMs.toNat + 1 < interval s.speed) :
    afterTick s = setElapsed (s.elapsedMs.toNat + 1) (clearCommit s) := if_pos h

theorem afterTick_of_le {s : State} (h : interval s.speed ≤ s.elapsedMs.toNat + 1) :
    afterTick s = stepDecision (setElapsed 0 (clearCommit s)) := if_neg (Nat.not_lt.2 h)

theorem execTick_eq_afterTick (s : State) : execTick s = .next (afterTick s) := by
  obtain ⟨hlt, e⟩ | ⟨hle, e⟩ := execTick_cases s
  · rw [e, afterTick_of_lt hlt]
  · rw [e, afterTick_of_le hle]

/-- A tick clears `out_commit` first, so it does not read it. -/
theorem afterTick_clearCommit (s : State) : afterTick (clearCommit s) = afterTick s := rfl

/-! ### The ports do not matter to a tick -/

/-- The state with another list of port values. -/
def State.withInputs (r : List CycleInput) (s : State) : State := { s with inputs := r }

theorem stepDecision_withInputs (r : List CycleInput) (s : State) :
    stepDecision (s.withInputs r) = (stepDecision s).withInputs r := by
  obtain ⟨hstop, e⟩ | ⟨i, hstop, hi, e⟩ | ⟨i, hstop, hactive, hi, e⟩ | ⟨hstop, hactive, e⟩ | ⟨hstop, hi, e⟩ :=
    stepDecision_cases s <;> rw [e]
  · exact stepDecision_free hstop
  · exact stepDecision_torque hstop hi
  · exact stepDecision_advance hstop hactive hi
  · exact stepDecision_completed hstop hactive
  · exact stepDecision_uninit hstop hi

theorem afterTick_withInputs (r : List CycleInput) (s : State) :
    afterTick (s.withInputs r) = (afterTick s).withInputs r := by
  by_cases hlt : s.elapsedMs.toNat + 1 < interval s.speed
  · rw [afterTick_of_lt hlt]
    exact afterTick_of_lt hlt
  · rw [afterTick_of_le (Nat.not_lt.1 hlt), ← stepDecision_withInputs]
    exact afterTick_of_le (Nat.not_lt.1 hlt)

theorem iterate_afterTick_withInputs (r : List CycleInput) (m : Nat) (s : State) :
    afterTick^[m] (s.withInputs r) = (afterTick^[m] s).withInputs r :=
  Function.Commute.iterate_left (g := State.withInputs r) (afterTick_withInputs r) m s

theorem step_tickOnly {s : State} {rest : List CycleInput} (h : s.inputs = .tickOnly :: rest) :
    step s = .next ((afterTick s).withInputs rest) := by
  rw [step_cons h, cycle_tickOnly, execTick_eq_afterTick, afterTick_clearCommit, ← afterTick_withInputs]
  rfl

/-- A run over `m` listed ticks is the tick's function `m` times, and leaves the rest of the list. -/
theorem run_ticks (m : Nat) {s : State} {rest : List CycleInput}
    (h : s.inputs = List.replicate m CycleInput.tickOnly ++ rest) :
    run m s = .next ((afterTick^[m] s).withInputs rest) := by
  induction m generalizing s with
  | zero => cases h; rfl
  | succ m ih =>
    rw [run, step_tickOnly h, andThen_next, ih rfl, iterate_afterTick_withInputs, Function.iterate_succ_apply]
    rfl

/-! ### What any number of ticks keeps -/

theorem afterTick_keeps (s : State) :
    (afterTick s).stepMode = s.stepMode ∧ (afterTick s).direction = s.direction ∧ (afterTick s).stopMode = s.stopMode ∧
    (afterTick s).totalSteps = s.totalSteps ∧ (afterTick s).isInfinite = s.isInfinite ∧ (afterTick s).speed = s.speed :=
  execTick_keeps (execTick_eq_afterTick s)

theorem iterate_afterTick_speed (m : Nat) (s : State) : (afterTick^[m] s).speed = s.speed := by
  induction m with
  | zero => rfl
  | succ m ih =>
    obtain ⟨-, -, -, -, -, hspeed⟩ := afterTick_keeps (afterTick^[m] s)
    rw [Function.iterate_succ_apply', hspeed, ih]

/-! ### The completed sub-state (R125) -/

/-- A tick in the completed sub-state counts or decides, and either way writes `elapsed_ms` and `out_commit` only. -/
theorem afterTick_of_stDone {s : State} (h : s.stDone = true) :
    ∃ e, afterTick s = { s with elapsedMs := e, outCommit := false } := by
  obtain ⟨hstop, hinf, hr⟩ := (stDone_iff s).1 h
  by_cases hlt : s.elapsedMs.toNat + 1 < interval s.speed
  · exact ⟨_, afterTick_of_lt hlt⟩
  · refine ⟨0#10, (afterTick_of_le (Nat.not_lt.1 hlt)).trans ?_⟩
    exact stepDecision_completed hstop (active_eq_false hinf hr)

theorem iterate_afterTick_of_stDone (m : Nat) {s : State} (h : s.stDone = true) :
    ∃ e, afterTick^[m + 1] s = { s with elapsedMs := e, outCommit := false } := by
  induction m with
  | zero => exact afterTick_of_stDone h
  | succ m ih =>
    obtain ⟨e, he⟩ := ih
    rw [Function.iterate_succ_apply', he]
    exact afterTick_of_stDone (s := { s with elapsedMs := e, outCommit := false }) h

/-- Settles O51: the sub-state is kept tick after tick, and it is one of TURNING, in which CONTINUE_MOVEMENT does nothing. -/
theorem completedTurnStaysPut : Obligations.CompletedTurnStaysPut := by
  refine fun s h => ⟨fun m rest hin => ?_, fun d => ?_⟩
  · obtain ⟨e, he⟩ := iterate_afterTick_of_stDone m h
    exact ⟨e, by rw [run_ticks (m + 1) hin, he]; rfl⟩
  · obtain ⟨hstop, -⟩ := (stDone_iff s).1 h
    obtain ⟨hturning, -⟩ := continueMovementResumes d s
    exact hturning hstop

end Sys2Proof.Machine
end

section
/-! PROOFS. The spacing of step decisions (43_tick.md R130): at one speed they fall `max(1, interval)` ticks apart, which is
read off from what `elapsed_ms` holds tick by tick. -/

namespace Sys2Proof.Machine

/-! ### `elapsedAfter` and `decisionsIn`, before the first decision and from it on -/

section Spacing

variable (v : Speed) (e0 : Nat)

theorem elapsedAfter_of_lt {m : Nat} (h : m < firstDecision v e0) : elapsedAfter v e0 m = e0 + m := if_pos h

theorem decisionsIn_of_lt {m : Nat} (h : m < firstDecision v e0) : decisionsIn v e0 m = 0 := if_pos h

theorem elapsedAfter_first_add (k : Nat) : elapsedAfter v e0 (firstDecision v e0 + k) = k % period v := by
  rw [elapsedAfter, if_neg (by omega), Nat.add_sub_cancel_left]

theorem decisionsIn_first_add (k : Nat) : decisionsIn v e0 (firstDecision v e0 + k) = k / period v + 1 := by
  rw [decisionsIn, if_neg (by omega), Nat.add_sub_cancel_left]

theorem firstDecision_pos : 0 < firstDecision v e0 := Nat.le_max_left 1 _

theorem period_pos : 0 < period v := Nat.le_max_left 1 _

theorem elapsedAfter_zero : elapsedAfter v e0 0 = e0 := elapsedAfter_of_lt v e0 (firstDecision_pos v e0)

theorem decisionsIn_zero : decisionsIn v e0 0 = 0 := decisionsIn_of_lt v e0 (firstDecision_pos v e0)

/-- A remainder goes up by one, or it is full and the quotient does. -/
theorem succ_mod_div_cases (k : Nat) {p : Nat} (hp : 0 < p) :
    (k % p + 1 < p ∧ (k + 1) % p = k % p + 1 ∧ (k + 1) / p = k / p) ∨
    (k % p + 1 = p ∧ (k + 1) % p = 0 ∧ (k + 1) / p = k / p + 1) := by
  have hsum : k + 1 = (k % p + 1) + p * (k / p) := by
    rw [Nat.add_right_comm, Nat.mod_add_div]
  have hmod : (k + 1) % p = (k % p + 1) % p := (Nat.mod_add_mod k p 1).symm
  have hdiv : (k + 1) / p = (k % p + 1) / p + k / p := (congrArg (· / p) hsum).trans (Nat.add_mul_div_left _ _ hp)
  rw [hmod, hdiv]
  obtain hlt | hfull : k % p + 1 < p ∨ k % p + 1 = p := Nat.lt_or_eq_of_le (Nat.mod_lt k hp)
  · exact .inl ⟨hlt, Nat.mod_eq_of_lt hlt, by rw [Nat.div_eq_of_lt hlt, Nat.zero_add]⟩
  · exact .inr ⟨hfull, by rw [hfull, Nat.mod_self], by rw [hfull, Nat.div_self hp, Nat.add_comm]⟩

/-- One tick more, counted as R121 counts it: below the interval the count goes up, and at it a decision is made. -/
theorem spacing_succ (m : Nat) :
    (elapsedAfter v e0 m + 1 < interval v ∧ elapsedAfter v e0 (m + 1) = elapsedAfter v e0 m + 1 ∧
      decisionsIn v e0 (m + 1) = decisionsIn v e0 m) ∨
    (interval v ≤ elapsedAfter v e0 m + 1 ∧ elapsedAfter v e0 (m + 1) = 0 ∧
      decisionsIn v e0 (m + 1) = decisionsIn v e0 m + 1) := by
  have hfirst : firstDecision v e0 = max 1 (interval v - e0) := rfl
  have hperiod : period v = max 1 (interval v) := rfl
  obtain hlt | heq | hge : m + 1 < firstDecision v e0 ∨ m + 1 = firstDecision v e0 ∨ firstDecision v e0 ≤ m := by omega
  · rw [elapsedAfter_of_lt v e0 hlt, decisionsIn_of_lt v e0 hlt, elapsedAfter_of_lt v e0 (by omega),
      decisionsIn_of_lt v e0 (by omega)]
    exact .inl ⟨by omega, by omega, rfl⟩
  · have hdecision := elapsedAfter_first_add v e0 0
    have hcount := decisionsIn_first_add v e0 0
    rw [Nat.add_zero, ← heq] at hdecision hcount
    rw [hdecision, hcount, elapsedAfter_of_lt v e0 (by omega), decisionsIn_of_lt v e0 (by omega), Nat.zero_mod,
      Nat.zero_div]
    exact .inr ⟨by omega, rfl, rfl⟩
  · obtain ⟨k, rfl⟩ := Nat.exists_eq_add_of_le hge
    rw [Nat.add_assoc, elapsedAfter_first_add, elapsedAfter_first_add, decisionsIn_first_add, decisionsIn_first_add]
    obtain ⟨hlt, hmod, hdiv⟩ | ⟨hfull, hmod, hdiv⟩ := succ_mod_div_cases k (period_pos v) <;> rw [hmod, hdiv]
    · exact .inl ⟨by omega, rfl, rfl⟩
    · exact .inr ⟨by omega, rfl, rfl⟩

end Spacing

/-! ### The count of a run -/

/-- A tick below the interval counts, and the count fits its register. -/
theorem afterTick_elapsedMs_of_lt {s : State} (hv : s.speed ≠ 0#16) (h : s.elapsedMs.toNat + 1 < interval s.speed) :
    (afterTick s).elapsedMs.toNat = s.elapsedMs.toNat + 1 := by
  obtain ⟨-, -, hcounts, -⟩ := commandsLeaveOutputsAlone
  obtain ⟨t, ht, he⟩ := hcounts s hv h
  rw [exec_tick, execTick_eq_afterTick] at ht
  cases ht
  exact he

/-- A step decision leaves `elapsed_ms` at 0. -/
theorem afterTick_elapsedMs_of_le {s : State} (h : interval s.speed ≤ s.elapsedMs.toNat + 1) :
    (afterTick s).elapsedMs.toNat = 0 := by
  obtain ⟨-, -, -, hdecides⟩ := commandsLeaveOutputsAlone
  obtain ⟨t, ht, he⟩ := hdecides s h
  rw [exec_tick, execTick_eq_afterTick] at ht
  cases ht
  rw [he]
  rfl

/-- After `m` ticks at a stored speed `elapsed_ms` is where the spacing of R130 puts it. -/
theorem iterate_afterTick_elapsedMs (m : Nat) {s : State} (hv : s.speed ≠ 0#16) :
    (afterTick^[m] s).elapsedMs.toNat = elapsedAfter s.speed s.elapsedMs.toNat m := by
  induction m with
  | zero => exact (elapsedAfter_zero _ _).symm
  | succ m ih =>
    have hspeed := iterate_afterTick_speed m s
    rw [Function.iterate_succ_apply']
    obtain ⟨hlt, he, -⟩ | ⟨hle, he, -⟩ := spacing_succ s.speed s.elapsedMs.toNat m
    · rw [he, ← ih]
      exact afterTick_elapsedMs_of_lt (hspeed ▸ hv) (by rwa [hspeed, ih])
    · rw [he]
      exact afterTick_elapsedMs_of_le (by rwa [hspeed, ih])

/-- Settles O49: the run is the tick's function iterated, whose count is `elapsedAfter` by induction on the ticks. -/
theorem stepDecisionSpacing : Obligations.StepDecisionSpacing :=
  fun m _ s hv hin => ⟨_, run_ticks m hin, rfl, iterate_afterTick_speed m s, iterate_afterTick_elapsedMs m hv⟩

end Sys2Proof.Machine
end

section
/-! PROOFS. A finite turn makes exactly its steps (43_tick.md R131): while steps remain each step decision is an advance, and
after the last one no decision is. -/

namespace Sys2Proof.Machine

/-! ### Repeated advances of the index (R128) -/

@[simp] theorem indexAdd_zero (i : Fin 8) : indexAdd i 0 = i :=
  (eq_indexAdd_of_val (by omega)).symm

theorem indexAdd_indexAdd (i : Fin 8) (x y : Int) : indexAdd (indexAdd i x) y = indexAdd i (x + y) := by
  apply eq_indexAdd_of_val
  rw [indexAdd_val, indexAdd_val, Int.emod_add_emod, Int.add_assoc]

/-- One advance after `a` of the same increment. -/
theorem indexAdd_mul_succ (i : Fin 8) (a : Nat) (x : Int) :
    indexAdd (indexAdd i (a * x)) x = indexAdd i (((a + 1 : Nat) : Int) * x) := by
  rw [indexAdd_indexAdd, Nat.cast_succ, Int.add_mul, Int.one_mul]

/-! ### A turn in progress -/

/-- `t` is a state of the finite turn that stands at index `i` in `s`, `a` advances later. -/
structure AdvancedBy (s : State) (i : Fin 8) (a : Nat) (t : State) : Prop where
  stopMode : t.stopMode = .turning
  finite : t.isInfinite = false
  direction : t.direction = s.direction
  stepMode : t.stepMode = s.stepMode
  phaseTable : t.phaseTable = s.phaseTable
  remaining : t.remainingSteps.toNat = s.remainingSteps.toNat - a
  index : t.currentIndex = some (indexAdd i (a * delta s.direction s.stepMode))
  phaseOut : t.phaseOut = if a = 0 then s.phaseOut else romRow s.phaseTable (indexAdd i (a * delta s.direction s.stepMode))

theorem advancedBy_zero {s : State} {i : Fin 8} (hstop : s.stopMode = .turning) (hinf : s.isInfinite = false)
    (hi : s.currentIndex = some i) : AdvancedBy s i 0 s :=
  ⟨hstop, hinf, rfl, rfl, rfl, rfl, by simp [hi], rfl⟩

theorem remainingSteps_eq_zero_iff (s : State) : s.remainingSteps = 0#32 ↔ s.remainingSteps.toNat = 0 :=
  BitVec.toNat_inj.symm

namespace AdvancedBy

variable {s t : State} {i : Fin 8} {a : Nat}

/-- The turn is done once it has made its steps (R33). -/
theorem stDone_iff (h : AdvancedBy s i a t) : t.stDone = true ↔ s.remainingSteps.toNat ≤ a := by
  rw [Machine.stDone_iff, remainingSteps_eq_zero_iff, h.remaining, Nat.sub_eq_zero_iff_le]
  simp [h.stopMode, h.finite]

/-- What every tick writes, the count and the clearing of `out_commit`, is no part of the turn. -/
theorem setElapsed_clearCommit (h : AdvancedBy s i a t) (e : Nat) : AdvancedBy s i a (setElapsed e (clearCommit t)) :=
  ⟨h.stopMode, h.finite, h.direction, h.stepMode, h.phaseTable, h.remaining, h.index, h.phaseOut⟩

/-- A step decision while steps remain is one more advance (R124). -/
theorem stepDecision_succ (h : AdvancedBy s i a t) (ha : a < s.remainingSteps.toNat) :
    AdvancedBy s i (a + 1) (stepDecision t) ∧ (stepDecision t).outCommit = true := by
  have hpos : t.remainingSteps.toNat ≠ 0 := by
    rw [h.remaining]
    omega
  have hne : t.remainingSteps ≠ 0#32 := (remainingSteps_eq_zero_iff t).not.2 hpos
  have hcount : (t.remainingSteps - 1#32).toNat = s.remainingSteps.toNat - (a + 1) := by
    have hr := h.remaining
    bv_omega
  rw [stepDecision_advance h.stopMode ((active_iff t).2 (.inr hne)) h.index, h.direction, h.stepMode, h.phaseTable,
    h.finite, countStep_finite hne, indexAdd_mul_succ]
  exact ⟨⟨h.stopMode, rfl, rfl, rfl, rfl, hcount, rfl, rfl⟩, rfl⟩

theorem afterTick_of_lt (h : AdvancedBy s i a t) (hlt : t.elapsedMs.toNat + 1 < interval t.speed) :
    AdvancedBy s i a (afterTick t) ∧ (afterTick t).outCommit = false := by
  rw [Machine.afterTick_of_lt hlt]
  exact ⟨h.setElapsed_clearCommit _, rfl⟩

theorem afterTick_succ (h : AdvancedBy s i a t) (hle : interval t.speed ≤ t.elapsedMs.toNat + 1)
    (ha : a < s.remainingSteps.toNat) : AdvancedBy s i (a + 1) (afterTick t) ∧ (afterTick t).outCommit = true := by
  rw [afterTick_of_le hle]
  exact (h.setElapsed_clearCommit 0).stepDecision_succ ha

/-- A step decision after the last step advances no more (R125). -/
theorem afterTick_completed (h : AdvancedBy s i a t) (hle : interval t.speed ≤ t.elapsedMs.toNat + 1)
    (ha : s.remainingSteps.toNat ≤ a) : AdvancedBy s i a (afterTick t) ∧ (afterTick t).outCommit = false := by
  obtain ⟨hstop, hinf, hr⟩ := (Machine.stDone_iff t).1 (h.stDone_iff.2 ha)
  have hcompleted : afterTick t = setElapsed 0 (clearCommit t) :=
    (afterTick_of_le hle).trans (stepDecision_completed hstop (active_eq_false hinf hr))
  rw [hcompleted]
  exact ⟨h.setElapsed_clearCommit 0, rfl⟩

end AdvancedBy

/-- A finite turn after `m` ticks: it has advanced with each decision up to its number of steps, and `out_commit` shows the
decision of the last tick if it was one of these. -/
theorem advancedBy_iterate_afterTick (m : Nat) {s : State} {i : Fin 8} (hv : s.speed ≠ 0#16) (hs : AdvancedBy s i 0 s)
    (hcommit : s.outCommit = false) :
    AdvancedBy s i (min s.remainingSteps.toNat (decisionsIn s.speed s.elapsedMs.toNat m)) (afterTick^[m] s) ∧
    ((afterTick^[m] s).outCommit = true ↔ 0 < m ∧ elapsedAfter s.speed s.elapsedMs.toNat m = 0 ∧
      decisionsIn s.speed s.elapsedMs.toNat m ≤ s.remainingSteps.toNat) := by
  induction m with
  | zero => simpa [decisionsIn_zero, hcommit] using hs
  | succ m ih =>
    obtain ⟨hturn, -⟩ := ih
    have hspeed := iterate_afterTick_speed m s
    have helapsed := iterate_afterTick_elapsedMs m hv
    rw [Function.iterate_succ_apply']
    obtain ⟨hlt, he, hd⟩ | ⟨hle, he, hd⟩ := spacing_succ s.speed s.elapsedMs.toNat m <;> rw [he, hd]
    · obtain ⟨hturn', hcommit'⟩ := hturn.afterTick_of_lt (by rwa [hspeed, helapsed])
      exact ⟨hturn', by simp [hcommit']⟩
    have hdecides : interval (afterTick^[m] s).speed ≤ (afterTick^[m] s).elapsedMs.toNat + 1 := by
      rwa [hspeed, helapsed]
    by_cases hmore : decisionsIn s.speed s.elapsedMs.toNat m < s.remainingSteps.toNat
    · rw [Nat.min_eq_right hmore.le] at hturn
      obtain ⟨hturn', hcommit'⟩ := hturn.afterTick_succ hdecides hmore
      rw [Nat.min_eq_right hmore]
      exact ⟨hturn', by simp [hcommit', Nat.succ_le_of_lt hmore]⟩
    · rw [Nat.min_eq_left (Nat.le_of_not_lt hmore)] at hturn
      obtain ⟨hturn', hcommit'⟩ := hturn.afterTick_completed hdecides le_rfl
      rw [Nat.min_eq_left (by omega)]
      exact ⟨hturn', by simp [hcommit']; omega⟩

/-! ### The command and the ticks after it -/

/-- What a cycle with TURN_STEPS leaves (42_movement.md R101; 60_exceptions.md R143). -/
def turnStarted (n : StepCount) (v : Speed) (d : Direction) (s : State) : State :=
  { s with
    direction := d, totalSteps := n, remainingSteps := n, isInfinite := false, speed := clampSpeed v, stopMode := .turning
    err := if v = 0#16 then s.err ||| 0b010#3 else s.err, outCommit := false }

theorem step_turnSteps {n : StepCount} {v : Speed} {d : Direction} {s : State} {rest : List CycleInput}
    (h : s.inputs = encode (.turnSteps n v d) :: rest) : step s = .next ((turnStarted n v d s).withInputs rest) :=
  (step_cons h).trans (cycle_encode_command rfl (turnStepsStartsFiniteTurn n v d _))

theorem run_turnSteps_ticks {n : StepCount} {v : Speed} {d : Direction} {m : Nat} {s : State} {rest : List CycleInput}
    (h : s.inputs = encode (.turnSteps n v d) :: (List.replicate m CycleInput.tickOnly ++ rest)) :
    run (m + 1) s = .next ((afterTick^[m] (turnStarted n v d s)).withInputs rest) := by
  rw [run, step_turnSteps h, andThen_next, run_ticks m rfl, iterate_afterTick_withInputs]
  rfl

/-- Settles O50: the command starts the turn, and the ticks make its advances one decision at a time. -/
theorem finiteTurnMakesExactlyItsSteps : Obligations.FiniteTurnMakesExactlyItsSteps := by
  intro n v u d m a rest s i hu ha hin hi
  obtain rfl : u = clampSpeed v := hu
  subst ha
  obtain ⟨hturn, hcommit⟩ := advancedBy_iterate_afterTick m (s := turnStarted n v d s) (clampSpeed_ne_zero v)
    (advancedBy_zero rfl rfl hi) rfl
  have hdone := hturn.stDone_iff.trans (Nat.le_min.trans (and_iff_right le_rfl))
  refine ⟨_, _, run_turnSteps_ticks hin, rfl, hturn.remaining, hturn.index, ?_, hturn.phaseOut, hcommit, hdone⟩
  rw [indexAdd_val, delta_eq]
  rfl

end Sys2Proof.Machine
end

section
/-! PROOFS. Errors and event priority (60_exceptions.md R140 to R146): reset beats everything and a command applies before a
tick, every phase completes, and the error bits that a cycle raises are ORed into `err`. -/

namespace Sys2Proof.Machine

/-! ### The order within a cycle, and its completion (R140, R143) -/

/-- The command phase completes: with what the command leaves, or with the state as it was. -/
theorem exists_commandPhase_eq_next (c : CycleInput) (s : State) :
    ∃ s1, (if c.cmdValid = true then exec (decodeWord c.cmdWord) s = .next s1 else s1 = s) ∧
      commandPhase c s = .next s1 := by
  unfold commandPhase
  cases c.cmdValid with
  | true =>
    obtain ⟨s1, h⟩ := exists_exec_eq_next (decodeWord c.cmdWord) s
    exact ⟨s1, h, h⟩
  | false => exact ⟨s, rfl, rfl⟩

/-- The tick phase completes: with what the tick leaves, or with `out_commit` cleared. -/
theorem exists_tickPhase_eq_next (c : CycleInput) (s : State) : ∃ t, tickPhase c s = .next t := by
  unfold tickPhase
  cases c.tick with
  | true => exact exists_exec_eq_next .tick (clearCommit s)
  | false => exact ⟨clearCommit s, rfl⟩

/-- Settles O1: the state between the phases is the one that the command phase completes with. -/
theorem cycleRunsCommandThenTick : Obligations.CycleRunsCommandThenTick := by
  refine fun c s => ⟨fun hr => cycle_of_rst hr s, fun hr => ?_⟩
  obtain ⟨s1, hcmd, hphase⟩ := exists_commandPhase_eq_next c s
  refine ⟨s1, hcmd, ?_⟩
  rw [cycle_of_not_rst hr, hphase, andThen_next]
  rfl

theorem exists_cycle_eq_next (c : CycleInput) (s : State) : ∃ t, cycle c s = .next t := by
  cases hr : c.rst with
  | true => exact ⟨_, cycle_of_rst hr s⟩
  | false =>
    obtain ⟨s1, -, hphase⟩ := exists_commandPhase_eq_next c s
    rw [cycle_of_not_rst hr, hphase, andThen_next]
    exact exists_tickPhase_eq_next c s1

/-- Settles O5: a step is a cycle, and both of a cycle's phases complete because every instruction does. -/
theorem everyInstructionAndStepCompletes : Obligations.EveryInstructionAndStepCompletes :=
  ⟨exists_exec_eq_next, fun s => exists_cycle_eq_next (nextInput s).1 (nextInput s).2⟩

/-! ### The error bits (R141, R142, R146) -/

/-- All that an operation does to `err` is to OR bits into it. -/
def OnlyRaises (s t : State) : Prop := ∃ raised : BitVec 3, t.err = s.err ||| raised

theorem OnlyRaises.of_eq {s t : State} (h : t.err = s.err) : OnlyRaises s t := ⟨0#3, by rw [h, BitVec.or_zero]⟩

theorem OnlyRaises.trans {s u t : State} (hsu : OnlyRaises s u) (hut : OnlyRaises u t) : OnlyRaises s t := by
  obtain ⟨a, ha⟩ := hsu
  obtain ⟨b, hb⟩ := hut
  exact ⟨a ||| b, by rw [hb, ha, BitVec.or_assoc]⟩

/-- A bit that is set stays set. -/
theorem OnlyRaises.sticky {s t : State} (h : OnlyRaises s t) (k : Nat) (hk : s.err.getLsbD k = true) :
    t.err.getLsbD k = true := by
  obtain ⟨raised, he⟩ := h
  rw [he, BitVec.getLsbD_or, hk, Bool.true_or]

theorem onlyRaises_raiseError (e : ErrorCode) (s : State) : OnlyRaises s (raiseError e s) := ⟨errorMask e, rfl⟩

theorem onlyRaises_flagSpeed (v : Speed) (s : State) : OnlyRaises s (flagSpeed v s) := by
  unfold flagSpeed
  split
  · exact onlyRaises_raiseError .speed s
  · exact .of_eq rfl

theorem exec_onlyRaises {i : Instr} {s t : State} (h : exec i s = .next t) : OnlyRaises s t := by
  cases i with
  | tick =>
    obtain he | he := execTick_err h
    · exact .of_eq he
    · exact ⟨_, he⟩
  | setStepMode m =>
    obtain ⟨-, e⟩ | ⟨_, -, e⟩ := execSetStepMode_cases m s <;> rw [exec_setStepMode, e] at h <;> cases h
    · exact onlyRaises_raiseError .cmd s
    · exact .of_eq rfl
  | continueMovement d =>
    obtain ⟨-, e⟩ | ⟨-, e⟩ := execContinueMovement_cases d s <;> rw [exec_continueMovement, e] at h <;> cases h
    · exact .of_eq rfl
    · exact .of_eq (foldReversal_err d s)
  | turnSteps n v d | turnInfinite v d => cases h; exact onlyRaises_flagSpeed v s
  | reserved6 | reserved7 => cases h; exact onlyRaises_raiseError .cmd s
  | nop | stop _ => cases h; exact .of_eq rfl

/-- Without reset the bits raised by the command and by the tick of a cycle are ORed (R142). -/
theorem cycle_onlyRaises {c : CycleInput} {s t : State} (hrst : c.rst = false) (h : cycle c s = .next t) :
    OnlyRaises s t := by
  obtain ⟨hr, -⟩ | ⟨-, s1, hcmd, htick⟩ := cycle_cases h
  · exact nomatch hrst.symm.trans hr
  have hcommand : OnlyRaises s s1 := by
    obtain ⟨-, hx⟩ | ⟨-, rfl⟩ := hcmd
    · exact exec_onlyRaises hx
    · exact .of_eq rfl
  have hrest : OnlyRaises (clearCommit s1) t := by
    obtain ⟨-, hx⟩ | ⟨-, rfl⟩ := htick
    · exact exec_onlyRaises (i := .tick) hx
    · exact .of_eq rfl
  exact hcommand.trans hrest

/-- Settles O43: what only ORs bits in clears none, and reset leaves the reset value of `err`. -/
theorem errorBitsAreSticky : Obligations.ErrorBitsAreSticky := by
  refine ⟨fun _ _ _ h => (exec_onlyRaises h).sticky, fun _ _ _ hrst h => (cycle_onlyRaises hrst h).sticky,
    fun c s t hrst h => ?_⟩
  rw [cycle_of_rst hrst] at h
  cases h
  exact resetRegisters_err s

/-- Settles O44: the tick runs on the state with `err[0]` raised, and its decision raises `err[2]` on top. -/
theorem errorsOfOneCycleAreOred : Obligations.ErrorsOfOneCycleAreOred := by
  intro w s hv hle hstop hi hop
  obtain ⟨-, hreserved⟩ := reservedOpcodesOnlyFlag
  obtain ⟨-, -, hcycle⟩ := hreserved w hop
  exact ⟨_, (hcycle s).trans (uninitDecisionFlags _ hv hle (.inl hstop) hi), BitVec.or_assoc _ _ _⟩

end Sys2Proof.Machine
end

section
/-! PROOFS. Reset (70_reset_and_hazards.md R160), which is what clears `err`, and the release of the lines after STOP FREE at
the next step decision (70_reset_and_hazards.md R166; 43_tick.md R123). -/

namespace Sys2Proof.Machine

/-! ### Reset (R160) -/

/-- Settles O3: `resetRegisters` writes the reset values, and a cycle without reset only ORs bits into `err`. -/
theorem resetCycleSetsEveryRegister : Obligations.ResetCycleSetsEveryRegister := by
  refine ⟨fun _ s hrst => cycle_of_rst hrst s, fun c s t h ⟨k, hset, hclear⟩ => ?_⟩
  by_contra hrst
  have hkept : t.err.getLsbD k = true := (cycle_onlyRaises (Bool.eq_false_of_not_eq_true hrst) h).sticky k hset
  exact nomatch hclear.symm.trans hkept

/-- Settles O40: the reset state is what a reset cycle leaves of itself, and every such state meets the invariant. -/
theorem resetMeetsRegisterBounds : Obligations.ResetMeetsRegisterBounds := resetRegisters_inv State.reset

/-! ### Stopped in FREE (R123, R166) -/

/-- `t` is a state of the block stopped in FREE that stands in `s`, `d` step decisions later. -/
structure FreeSince (s : State) (d : Nat) (t : State) : Prop where
  stopMode : t.stopMode = .free
  index : t.currentIndex = s.currentIndex
  remaining : t.remainingSteps = s.remainingSteps
  direction : t.direction = s.direction
  phaseOut : t.phaseOut = if d = 0 then s.phaseOut else 0b0000#4

namespace FreeSince

variable {s t : State} {d : Nat}

/-- A tick below the interval holds the lines. -/
theorem afterTick_of_lt (h : FreeSince s d t) (hlt : t.elapsedMs.toNat + 1 < interval t.speed) :
    FreeSince s d (afterTick t) := by
  rw [Machine.afterTick_of_lt hlt]
  exact ⟨h.stopMode, h.index, h.remaining, h.direction, h.phaseOut⟩

/-- A step decision switches the lines off, and the position stays. -/
theorem afterTick_of_le (h : FreeSince s d t) (hle : interval t.speed ≤ t.elapsedMs.toNat + 1) :
    FreeSince s (d + 1) (afterTick t) := by
  have hoff : afterTick t = commit 0#4 (setElapsed 0 (clearCommit t)) :=
    (Machine.afterTick_of_le hle).trans (stepDecision_free h.stopMode)
  rw [hoff]
  exact ⟨h.stopMode, h.index, h.remaining, h.direction, rfl⟩

end FreeSince

/-- In FREE, `m` ticks are the decisions that the spacing of R130 counts. -/
theorem freeSince_iterate_afterTick (m : Nat) {s : State} (hv : s.speed ≠ 0#16) (hstop : s.stopMode = .free) :
    FreeSince s (decisionsIn s.speed s.elapsedMs.toNat m) (afterTick^[m] s) := by
  induction m with
  | zero =>
    rw [decisionsIn_zero]
    exact ⟨hstop, rfl, rfl, rfl, rfl⟩
  | succ m ih =>
    have hspeed := iterate_afterTick_speed m s
    have helapsed := iterate_afterTick_elapsedMs m hv
    rw [Function.iterate_succ_apply']
    obtain ⟨hlt, -, hd⟩ | ⟨hle, -, hd⟩ := spacing_succ s.speed s.elapsedMs.toNat m <;> rw [hd]
    · exact ih.afterTick_of_lt (by rwa [hspeed, helapsed])
    · exact ih.afterTick_of_le (by rwa [hspeed, helapsed])

/-! ### When the first decision comes (R130) -/

theorem decisionsIn_eq_zero_iff (v : Speed) (e0 m : Nat) : decisionsIn v e0 m = 0 ↔ m < firstDecision v e0 := by
  unfold decisionsIn
  split <;> simp [*]

theorem firstDecision_le_period (v : Speed) (e0 : Nat) : firstDecision v e0 ≤ period v :=
  max_le_max le_rfl (Nat.sub_le _ _)

/-! ### The command and the ticks after it -/

/-- What a cycle with STOP FREE leaves (42_movement.md R103; 60_exceptions.md R143). -/
def stoppedFree (s : State) : State := { s with stopMode := .free, outCommit := false }

theorem step_stopFree {s : State} {rest : List CycleInput} (h : s.inputs = encode (.stop .free) :: rest) :
    step s = .next ((stoppedFree s).withInputs rest) :=
  (step_cons h).trans (cycle_encode_command rfl (exec_stop .free _))

theorem run_stopFree_ticks {m : Nat} {s : State} {rest : List CycleInput}
    (h : s.inputs = encode (.stop .free) :: (List.replicate m CycleInput.tickOnly ++ rest)) :
    run (m + 1) s = .next ((afterTick^[m] (stoppedFree s)).withInputs rest) := by
  rw [run, step_stopFree h, andThen_next, run_ticks m rfl, iterate_afterTick_withInputs]
  rfl

/-- Settles O52: the lines are off once the ticks after STOP FREE have made a decision, and the first of these is spaced from
the `elapsed_ms` that STOP left. -/
theorem stopFreeReleasesAtNextDecision : Obligations.StopFreeReleasesAtNextDecision := by
  intro m rest s hv hin
  have hfree := freeSince_iterate_afterTick m (s := stoppedFree s) hv rfl
  have hnone := decisionsIn_eq_zero_iff s.speed s.elapsedMs.toNat m
  refine ⟨_, run_stopFree_ticks hin, hfree.index, hfree.remaining, hfree.direction, fun hlt => ?_, fun hle => ?_,
    firstDecision_le_period _ _⟩
  · exact hfree.phaseOut.trans (if_pos (hnone.2 hlt))
  · exact hfree.phaseOut.trans (if_neg (hnone.not.2 (Nat.not_lt.2 hle)))

end Sys2Proof.Machine
end

section
/-! PROOFS. The encoder and the decoder agree (30_encoding.md R61 to R69): what is put on the ports for an instruction is read
back as that instruction and no other. -/

namespace Sys2Proof

/-- A cycle with a command and no tick carries the instruction of its word (30_encoding.md R71). -/
theorem decodeCycle_command (w : Word) : decodeCycle (.command w) = [decodeWord w] := rfl

/-- A tick travels on its own port, without a word (30_encoding.md R68). -/
theorem decodeCycle_encode_tick : decodeCycle (encode .tick) = [.tick] := rfl

theorem decodeCycle_encode_of_encodeWord {i : Instr} {w : Word} (h : encodeWord i = some w) :
    decodeCycle (encode i) = [i] := by
  rw [encode_of_encodeWord h, decodeCycle_command, decodeWord_of_encodeWord h]

/-- The ports of an instruction carry that instruction alone: a tick on its own port, every other by its word. -/
theorem decodeCycle_encode (i : Instr) : decodeCycle (encode i) = [i] := by
  cases i with
  | tick => exact decodeCycle_encode_tick
  | _ => exact decodeCycle_encode_of_encodeWord rfl

/-- Settles O8: the ports by whether the instruction has a word, and the word by each field of a packed word. -/
theorem decodeEncodeRoundTrip : Obligations.DecodeEncodeRoundTrip :=
  fun i => ⟨decodeCycle_encode i, fun _ hw => decodeWord_of_encodeWord hw⟩

end Sys2Proof
end
